-- ==== Sys2Proof/Word.lean ====
section
/-! DEFINITION. The word types of the core: the widths that rule R11 of 00_scope.md fixes. -/

namespace Sys2Proof

/-- A word of the 32-bit host bus: data, addresses, command words, registers, counts (R11). -/
abbrev Word := BitVec 32

/-- A byte of the four byte buffers (R57 to R60). -/
abbrev Byte := BitVec 8

/-- A symbol: a 7-bit unsigned value 0..127 (R8). -/
abbrev Sym := BitVec 7

/-- A probability: a 64-bit pattern read as an IEEE 754 binary64 number (R14). -/
abbrev Pattern := BitVec 64

end Sys2Proof
end

