-- ==== Sys2Proof/Syntax.lean ====
section
/-! DEFINITION. The command set: one constructor for each row of spec/opcode_table.json (R88). -/

namespace Sys2Proof

/-- The twelve commands of rule R88.
No command has an operand field: every operand is a fixed register, table or buffer (R91, R92). -/
inductive Instr where
  | nop         -- 0x00 NOP, R133
  | clear       -- 0x01 CLEAR, R134
  | count       -- 0x10 COUNT, R96
  | sort        -- 0x11 SORT, R102
  | buildTree   -- 0x12 BUILD_TREE, R108
  | buildCodes  -- 0x13 BUILD_CODES, R115
  | encode      -- 0x20 ENCODE, R123
  | pack        -- 0x21 PACK, R124
  | unpack      -- 0x22 UNPACK, R127
  | decode      -- 0x23 DECODE, R130
  | encodeAll   -- 0x30 ENCODE_ALL, R135
  | build       -- 0x31 BUILD, R136
deriving DecidableEq, Repr

end Sys2Proof
end

