-- ==== Sys2Proof/Decode.lean ====
section
/-! DEFINITION. Decoding of command words, total on every 32-bit word and rejecting by name (R86 to R90),
and the encoder written from the same table (R88). -/

namespace Sys2Proof

/-- Why a command word is illegal (R90).
Both kinds start like any command and complete as a failure with ILLEGAL_CMD (R89). -/
inductive Illegal where
  | reservedBits (word : Word)   -- bits 31:8 (RSVD) are not zero
  | unknownOpcode (op : Byte)    -- RSVD is zero and OPCODE is not in the table of R88
deriving DecidableEq, Repr

/-- The OPCODE field, bits 7:0 (R86). -/
def opcodeField (w : Word) : Byte := w.extractLsb' 0 8

/-- The RSVD field, bits 31:8 (R86). -/
def rsvdField (w : Word) : BitVec 24 := w.extractLsb' 8 24

/-- The opcode map of R88, on the OPCODE field alone. -/
def decodeOpcode (op : Byte) : Option Instr :=
  match op.toNat with
  | 0x00 => some .nop
  | 0x01 => some .clear
  | 0x10 => some .count
  | 0x11 => some .sort
  | 0x12 => some .buildTree
  | 0x13 => some .buildCodes
  | 0x20 => some .encode
  | 0x21 => some .pack
  | 0x22 => some .unpack
  | 0x23 => some .decode
  | 0x30 => some .encodeAll
  | 0x31 => some .build
  | _ => none

/-- Decoding a written command word: one of the twelve commands, or ILLEGAL (R89). -/
def decode (w : Word) : Except Illegal Instr :=
  if rsvdField w = 0 then
    match decodeOpcode (opcodeField w) with
    | some i => .ok i
    | none => .error (.unknownOpcode (opcodeField w))
  else .error (.reservedBits w)

/-- The command word of each command, the first column of R88's table. -/
def encode : Instr → Word
  | .nop        => 0x00000000
  | .clear      => 0x00000001
  | .count      => 0x00000010
  | .sort       => 0x00000011
  | .buildTree  => 0x00000012
  | .buildCodes => 0x00000013
  | .encode     => 0x00000020
  | .pack       => 0x00000021
  | .unpack     => 0x00000022
  | .decode     => 0x00000023
  | .encodeAll  => 0x00000030
  | .build      => 0x00000031

/-- The 32-bit command word of `w`, whose bits from `nbits` up are zero.
A command word is one 32-bit host write, so there is nothing to lay out (R87). -/
def tableWord (nbits w : Nat) : Word := BitVec.ofNat 32 (w % 2 ^ nbits)

/-- What the decoder reads from an instruction numbered as spec/opcode_table.json numbers it. -/
def decodeTableWord (nbits w : Nat) : Option Instr :=
  match decode (tableWord nbits w) with
  | .ok i => some i
  | .error _ => none

end Sys2Proof
end

