-- ==== Sys2Proof/Config.lean ====
section
/-! DEFINITION. What an implementation fixes (the OPEN parameters of 92_eei_decisions.md), the derived
capacity constants of R9, and the free values: opaque constants with no body, about which nothing can be
proved. -/

namespace Sys2Proof

/-- A buffer capacity: a natural in 1..2^24, the bounds of rule R10. -/
structure Capacity where
  size : Nat
  pos  : 1 ≤ size
  le   : size ≤ 2 ^ 24
deriving DecidableEq, Repr

/-- The parameters the spec leaves OPEN and that one core fixes (R10, R65).
BASE must be aligned to 2^27, so its five high bits are stored. -/
structure Params where
  baseIndex : BitVec 5
  maxIn     : Capacity
  maxPk     : Capacity
  maxBits   : Capacity
  maxDec    : Capacity
deriving DecidableEq, Repr

/-- The capacities that R10 tabulates as defaults; BASE = 0 (DESIGN CHOICE, log 4). -/
def Params.standard : Params where
  baseIndex := 0
  maxIn     := ⟨65536, by decide, by decide⟩
  maxPk     := ⟨1048576, by decide, by decide⟩
  maxBits   := ⟨8388608, by decide, by decide⟩
  maxDec    := ⟨65536, by decide, by decide⟩

/-- `MAX_LEAVES` of R9. -/
abbrev Config.maxLeaves : Nat := 128

/-- `MAX_NODES` of R9. -/
abbrev Config.maxNodes : Nat := 255

/-- The byte that the RAM at a byte offset of the address map holds after the `epoch`-th reset, until
something writes it: a free value for each reset and each byte (R159, U1, U3, U4; log 1). -/
opaque Config.freeRam (epoch offset : Nat) : Byte

/-- The word that the `n`-th host read of a location other than ID, VERSION, CTRL, CMD and STATUS during
BUSY returns: a fresh free value for each read (R81, U2; log 2). -/
opaque Config.freeRead (n : Nat) : Word

/-- The bits that IEEE 754 leaves open in the NaN which an invalid operation or a NaN operand gives.
No command reaches it (R16; log 11). -/
opaque Config.freeNaN (a b : Pattern) : Pattern

end Sys2Proof
end

