-- ==== Sys2Proof/Machine/State.lean ====
section
/-! DEFINITION. The state of the core and of its two agents, the reasons a step can stop, and the state
after reset (10_state.md, 70_reset_and_hazards.md R158). -/

namespace Sys2Proof.Machine

/-- The error codes of R137.
Codes 11..15 are never written (R36), so they have no constructor. -/
inductive ErrCode where
  | none            -- 0
  | illegalCmd      -- 1
  | badLength       -- 2
  | invalidSymbol   -- 3
  | invalidBitChar  -- 4
  | listTooSmall    -- 5
  | badList         -- 6
  | noTree          -- 7
  | noTable         -- 8
  | noCode          -- 9
  | outOverflow     -- 10
deriving DecidableEq, Repr

/-- The command engine's phase (R26): IDLE, or BUSY with the command word that was accepted and the
number of host turns that still pass before the command completes (the rest of LATENCY, R168). -/
inductive Phase where
  | idle
  | busy (word : Word) (left : Nat)
deriving DecidableEq, Repr

/-- CTRL (R29). Its reserved bits read 0 and ignore writes, so they have no storage. -/
structure Ctrl where
  ieDone : Bool
  ieErr  : Bool
deriving DecidableEq, Repr

/-- The fields of STATUS (R31) but BUSY, which is the engine's phase (R32). -/
structure Status where
  done        : Bool
  err         : Bool
  accessErr   : Bool
  errCode     : ErrCode
  empty       : Bool
  degenerate  : Bool
  padFallback : Bool
  trailing    : Bool
  treeValid   : Bool
  codesValid  : Bool
deriving DecidableEq, Repr

/-- One frequency entry, an element of SLIST (R54). -/
structure FreqEntry where
  sym  : Sym
  prob : Pattern
deriving DecidableEq, Repr

/-- One element of the node arena NODE (R55). -/
structure NodeEntry where
  leaf  : Bool
  sym   : Sym
  prob  : Pattern
  left  : BitVec 8
  right : BitVec 8
deriving DecidableEq, Repr

/-- One element of the encoding table CODE (R56). -/
structure CodeEntry where
  len  : BitVec 8
  bits : BitVec 128
deriving DecidableEq, Repr

/-- The bytes of the four buffers: pairs of a byte offset in the address map and the byte stored there,
offsets strictly rising. -/
abbrev Memory := List Host.Cell

/-- One operation of the host program (R13, R93, R94). -/
inductive HostOp where
  | read  (addr : Word) (size : Nat)             -- MemRead(addr, size)
  | write (addr : Word) (size : Nat) (v : Word)  -- MemWrite(addr, size, v)
  | wait                                         -- WAIT: enabled only when BUSY = 0
  | waitIrq                                      -- wait for the interrupt line (R164)
  | pass                                         -- the host makes no access in this turn
deriving DecidableEq, Repr

/-- Everything the spec gives the machine (10_state.md), the parameters it leaves OPEN, and what the
environment still has to do. INVENTORY.md lists every field with its rule and reset value. -/
structure State where
  params    : Params
  ctrl      : Ctrl
  phase     : Phase
  status    : Status
  inLen     : Word
  pkLen     : Word
  bitLen    : Word
  decLen    : Word
  total     : Word
  slistLen  : Word
  nodeCnt   : Word
  root      : BitVec 8
  bitCnt    : Word
  cnt       : Vector Word 128
  slist     : Vector FreqEntry 128
  node      : Vector NodeEntry 255
  code      : Vector CodeEntry 128
  mem       : Memory
  epoch     : Nat
  draws     : Nat
  latencies : List Nat
  host      : List HostOp
  resets    : List Nat
  reads     : List Word
deriving DecidableEq, Repr

/-- The reasons the machine stops with a fault. The core itself never sticks (U15). -/
inductive Fault where
  /-- Raised by `hostTurn`: the host waits for the interrupt line while the core is idle, the line is 0
  and no reset is to come, so nothing can ever raise it (93_implementation_defined.md U15).
  Safe: the hardware would wait for ever. -/
  | hostStuck
deriving DecidableEq, Repr

/-- The reasons the model gives no meaning. -/
inductive Refusal where
  /-- Raised by an arm of `exec` whose instruction has no meaning yet; no arm is left so. Safe. -/
  | notModelled (mnemonic : String)
  /-- Raised by `hostTurn` for a host access that is not 32 bits wide: no such access exists
  (R73, 93_implementation_defined.md U14). Safe: outside the model's host. -/
  | accessWidth (bytes : Nat)
deriving DecidableEq, Repr

/-- The word of RAM at a byte offset after the `epoch`-th reset: four free bytes, lowest address in the
least significant lane (R68, R69, R70; log 1). -/
def ramWordAtReset (epoch offset : Nat) : Word :=
  Config.freeRam epoch (offset + 3) ++ Config.freeRam epoch (offset + 2)
    ++ Config.freeRam epoch (offset + 1) ++ Config.freeRam epoch offset

/-- SLIST[i] after the `epoch`-th reset: free values, laid out as R68 maps the element (R159). -/
def slistAtReset (epoch i : Nat) : FreqEntry where
  sym  := (ramWordAtReset epoch (0x800 + 16 * i)).setWidth 7
  prob := ramWordAtReset epoch (0x808 + 16 * i) ++ ramWordAtReset epoch (0x804 + 16 * i)

/-- NODE[n] after the `epoch`-th reset: free values, laid out as R69 maps the element (R159). -/
def nodeAtReset (epoch n : Nat) : NodeEntry where
  leaf  := (ramWordAtReset epoch (0x1000 + 16 * n)).getLsbD 31
  sym   := (ramWordAtReset epoch (0x1000 + 16 * n)).setWidth 7
  left  := (ramWordAtReset epoch (0x1004 + 16 * n)).extractLsb' 0 8
  right := (ramWordAtReset epoch (0x1004 + 16 * n)).extractLsb' 8 8
  prob  := ramWordAtReset epoch (0x100C + 16 * n) ++ ramWordAtReset epoch (0x1008 + 16 * n)

/-- CODE[s] after the `epoch`-th reset: free values, laid out as R70 maps the element (R159). -/
def codeAtReset (epoch s : Nat) : CodeEntry where
  len  := (ramWordAtReset epoch (0x2000 + 32 * s)).setWidth 8
  bits := ramWordAtReset epoch (0x2010 + 32 * s) ++ ramWordAtReset epoch (0x200C + 32 * s)
    ++ ramWordAtReset epoch (0x2008 + 32 * s) ++ ramWordAtReset epoch (0x2004 + 32 * s)

/-- The state right after the `epoch`-th reset of a core with the given parameters: the table of R158.
RAM holds free values (R159); the environment has nothing left to do. -/
def State.resetWith (params : Params) (epoch : Nat) : State where
  params    := params
  ctrl      := { ieDone := false, ieErr := false }
  phase     := .idle
  status    := { done := false, err := false, accessErr := false, errCode := .none, empty := false,
                 degenerate := false, padFallback := false, trailing := false, treeValid := false,
                 codesValid := false }
  inLen     := 0
  pkLen     := 0
  bitLen    := 0
  decLen    := 0
  total     := 0
  slistLen  := 0
  nodeCnt   := 0
  root      := 0
  bitCnt    := 0
  cnt       := Vector.replicate 128 0
  slist     := Vector.ofFn fun i => slistAtReset epoch i
  node      := Vector.ofFn fun n => nodeAtReset epoch n
  code      := Vector.ofFn fun s => codeAtReset epoch s
  mem       := []
  epoch     := epoch
  draws     := 0
  latencies := []
  host      := []
  resets    := []
  reads     := []

/-- The machine right after reset: R158, with the standard parameters (log 4). -/
def State.reset : State := State.resetWith Params.standard 0

end Sys2Proof.Machine
end

