-- ==== Sys2Proof/Machine/Flags.lean ====
section
/-! DEFINITION. The status word, the control word, the interrupt line and every update of a flag
(R29, R31 to R42, R146). -/

namespace Sys2Proof.Machine

/-- The number of an error code (R137), as STATUS.ERR_CODE shows it. -/
def ErrCode.number : ErrCode → BitVec 4
  | .none           => 0
  | .illegalCmd     => 1
  | .badLength      => 2
  | .invalidSymbol  => 3
  | .invalidBitChar => 4
  | .listTooSmall   => 5
  | .badList        => 6
  | .noTree         => 7
  | .noTable        => 8
  | .noCode         => 9
  | .outOverflow    => 10

/-- STATUS.BUSY: the engine's phase (R26, R32). -/
def Phase.isBusy : Phase → Bool
  | .idle => false
  | .busy _ _ => true

/-- The STATUS word (R31): bit 31 first; bits 31:14 read 0 (R52). -/
def Status.word (busy : Bool) (f : Status) : Word :=
  (0#18 ++ BitVec.ofBool f.codesValid ++ BitVec.ofBool f.treeValid ++ BitVec.ofBool f.trailing
    ++ BitVec.ofBool f.padFallback ++ BitVec.ofBool f.degenerate ++ BitVec.ofBool f.empty
    ++ f.errCode.number ++ BitVec.ofBool f.accessErr ++ BitVec.ofBool f.err
    ++ BitVec.ofBool f.done ++ BitVec.ofBool busy : BitVec 32)

/-- The CTRL word (R29): bit 0 IE_DONE, bit 1 IE_ERR, the rest 0. -/
def Ctrl.word (c : Ctrl) : Word :=
  (0#30 ++ BitVec.ofBool c.ieErr ++ BitVec.ofBool c.ieDone : BitVec 32)

/-- CTRL after a host write: reserved bits are ignored (R29, R52). -/
def Ctrl.ofWord (v : Word) : Ctrl where
  ieDone := v.getLsbD 0
  ieErr  := v.getLsbD 1

/-- A host write to STATUS: each W1C bit is cleared where the written bit is 1; every other written bit
is ignored (R31). -/
def Status.writeOneToClear (f : Status) (v : Word) : Status :=
  { f with
    done      := f.done && !v.getLsbD 1
    err       := f.err && !v.getLsbD 2
    accessErr := f.accessErr && !v.getLsbD 3 }

/-- STATUS at the start of a command (R140): DONE, ERR and ERR_CODE are cleared. -/
def Status.atStart (f : Status) : Status :=
  { f with done := false, err := false, errCode := .none }

/-- STATUS at a successful completion (R141; its values are (BUSY, DONE, ERR, ERR_CODE) = (0, 1, 0, 0),
R161; log 8). -/
def Status.atSuccess (f : Status) : Status :=
  { f with done := true, err := false, errCode := .none }

/-- STATUS at a failed completion with a code (R141). -/
def Status.atFailure (f : Status) (code : ErrCode) : Status :=
  { f with done := true, err := true, errCode := code }

/-- STATUS.EMPTY alone (R37). -/
def Status.setEmpty (f : Status) (b : Bool) : Status := { f with empty := b }

/-- STATUS.DEGENERATE alone (R38). -/
def Status.setDegenerate (f : Status) (b : Bool) : Status := { f with degenerate := b }

/-- STATUS.PAD_FALLBACK alone (R39). -/
def Status.setPadFallback (f : Status) (b : Bool) : Status := { f with padFallback := b }

/-- STATUS.TRAILING alone (R40). -/
def Status.setTrailing (f : Status) (b : Bool) : Status := { f with trailing := b }

/-- TREE_VALID = 1 and CODES_VALID = 0: a new tree makes the old codes stale (R41, R42). -/
def Status.withNewTree (f : Status) : Status := { f with treeValid := true, codesValid := false }

/-- CODES_VALID = 1 (R42). -/
def Status.withNewCodes (f : Status) : Status := { f with codesValid := true }

/-- ACCESS_ERR = 1 (R35). -/
def Status.rejectAccess (f : Status) : Status := { f with accessErr := true }

/-- The flags that CLEAR zeroes (R134, R161). -/
def Status.cleared (f : Status) : Status :=
  { f with
    accessErr := false, empty := false, degenerate := false, padFallback := false,
    trailing := false, treeValid := false, codesValid := false }

/-- STATUS.BUSY of the machine. -/
def State.busy (s : State) : Bool := s.phase.isBusy

/-- The STATUS word of the machine. -/
def State.statusWord (s : State) : Word := s.status.word s.busy

/-- The interrupt output: level-sensitive, a combinational function of STATUS and CTRL (R146). -/
def State.irq (s : State) : Bool :=
  (s.status.done && s.ctrl.ieDone) || ((s.status.err || s.status.accessErr) && s.ctrl.ieErr)

end Sys2Proof.Machine
end

