-- ==== Sys2Proof/Machine/Ops.lean ====
section
/-! DEFINITION. The shared operations: sparse memory, the four byte buffers, the start of a command, its
two ways to complete (the failing one is the core's only trap, R148) and the stages of a command. -/

namespace Sys2Proof.Machine

/-! ### Sparse memory -/

/-- The canonical form: offsets strictly rise, so no offset is listed twice.
An offset that is not listed has no stored byte (log 1). -/
abbrev Memory.wf (m : Memory) : Prop := m.Pairwise fun x y => x.1 < y.1

/-- The byte stored at an offset, if one is. -/
def Memory.find : Memory → Nat → Option Byte
  | [], _ => none
  | (k, b) :: m, a => if k = a then some b else Memory.find m a

/-- Stores one byte, keeping the offsets in rising order. -/
def Memory.set : Memory → Nat → Byte → Memory
  | [], a, v => [(a, v)]
  | (k, b) :: m, a, v =>
    if a < k then (a, v) :: (k, b) :: m
    else if a = k then (a, v) :: m
    else (k, b) :: Memory.set m a v

/-- Stores a list of bytes at consecutive offsets. -/
def Memory.setAll (m : Memory) (base : Nat) : List Byte → Memory
  | [] => m
  | b :: bs => Memory.setAll (m.set base b) (base + 1) bs

/-! ### The byte buffers (R57 to R60, R66) -/

/-- The four byte buffers. -/
inductive Buffer where
  | inp   -- IN
  | pk    -- PK
  | bits  -- BITS
  | dec   -- DEC
deriving DecidableEq, Repr

/-- The byte offset of element 0 of a buffer: its window's base (R65). -/
def Buffer.base : Buffer → Nat
  | .inp  => 0x01000000
  | .pk   => 0x02000000
  | .bits => 0x03000000
  | .dec  => 0x04000000

/-- A buffer's capacity parameter (R10). -/
def Buffer.capacity (p : Params) : Buffer → Nat
  | .inp  => p.maxIn.size
  | .pk   => p.maxPk.size
  | .bits => p.maxBits.size
  | .dec  => p.maxDec.size

/-- The host may write every buffer but DEC (R76). -/
def Buffer.hostWritable : Buffer → Bool
  | .dec => false
  | _ => true

/-- The byte of RAM at an offset: what was last written there since the last reset, and otherwise the
free value the reset left (R159). -/
def State.ram (s : State) (offset : Nat) : Byte :=
  (s.mem.find offset).getD (Config.freeRam s.epoch offset)

/-- Element `i` of a buffer. -/
def State.elem (s : State) (b : Buffer) (i : Nat) : Byte := s.ram (b.base + i)

/-- Elements 0..n-1 of a buffer. -/
def State.elems (s : State) (b : Buffer) (n : Nat) : List Byte := (List.range n).map (s.elem b)

/-- Writes elements 0..n-1 of a buffer and no other (R61). -/
def State.setElems (s : State) (b : Buffer) (l : List Byte) : State :=
  { s with mem := s.mem.setAll b.base l }

/-! ### Tables -/

/-- Writes the first elements of a table and leaves the others unchanged (R54, R55). -/
def overlay {α : Type} {n : Nat} (v : Vector α n) (l : List α) : Vector α n :=
  Vector.ofFn fun i => (l[i.1]?).getD v[i]

/-! ### Start and completion of a command (R140, R141) -/

/-- The LATENCY of the next legal command to start: 0 when the environment gives none (R168, log 3). -/
def State.nextLatency (s : State) : Nat := s.latencies.headD 0

/-- The latency of a command word: an illegal word completes at once (R89), and so takes none from the
environment. -/
def State.latencyOf (s : State) (w : Word) : Nat :=
  match decode w with
  | .ok _ => s.nextLatency
  | .error _ => 0

/-- The latencies that are left after a command word is accepted. -/
def State.latenciesAfter (s : State) (w : Word) : List Nat :=
  match decode w with
  | .ok _ => s.latencies.tail
  | .error _ => s.latencies

/-- The acceptance of a command word: BUSY is set; DONE, ERR and ERR_CODE are cleared (R140). -/
def State.start (s : State) (w : Word) (latency : Nat) : State :=
  { s with phase := .busy w latency, status := s.status.atStart }

/-- A successful completion of what has been committed: BUSY = 0, DONE = 1, ERR = 0, ERR_CODE = 0
(R141, R142). -/
def State.succeed (s : State) : State :=
  { s with phase := .idle, status := s.status.atSuccess }

/-- TAKING THE TRAP: a failed completion with a code (R141, R148).
The engine returns to IDLE, DONE and ERR are set, ERR_CODE records the code; nothing else is saved, and
there is no mode, no vector and no stack. -/
def State.takeFailure (s : State) (code : ErrCode) : State :=
  { s with phase := .idle, status := s.status.atFailure code }

/-- There is no return from a trap: the host acknowledges it by writing 1 to the W1C bits (R149), which
is this write to STATUS (R31). -/
def State.acknowledge (s : State) (v : Word) : State :=
  { s with status := s.status.writeOneToClear v }

/-- A rejected host access: ACCESS_ERR is set and nothing else changes (R35, R75, R76, R163). -/
def State.reject (s : State) : State := { s with status := s.status.rejectAccess }

/-- A command in progress: what its finished stages have committed, and the code of the stage that
failed, if one did (R143). -/
structure Run where
  state : State
  error : Option ErrCode
deriving DecidableEq, Repr

/-- What a stage does: it fails with a code and commits nothing, or it answers the state with all its
writes committed (R142, R143). -/
abbrev Stage := State → Except ErrCode State

/-- A command that has done nothing yet. -/
def Run.begin (s : State) : Run := { state := s, error := none }

/-- Runs one more stage, unless an earlier one failed. -/
def Run.stage (r : Run) (f : Stage) : Run :=
  match r.error with
  | some _ => r
  | none =>
    match f r.state with
    | .ok t => { state := t, error := none }
    | .error c => { state := r.state, error := some c }

/-- The completion of a command (R141). -/
def Run.complete (r : Run) : State :=
  match r.error with
  | none => r.state.succeed
  | some c => r.state.takeFailure c

/-- The outcome of a primitive command: one stage and its completion. -/
def primitive (f : Stage) (s : State) : Host.Outcome State Fault Refusal :=
  .next ((Run.begin s).stage f).complete

/-- The completion of a word that decodes to no command: a failure with ILLEGAL_CMD (R89, R90). -/
def illegalCommand (s : State) : Host.Outcome State Fault Refusal :=
  .next (s.takeFailure .illegalCmd)

end Sys2Proof.Machine
end

