-- ==== Sys2Proof/Machine/Bus.lean ====
section
/-! DEFINITION. The host bus: the address map, host reads and host writes (20_memory.md, 10_state.md,
70_reset_and_hazards.md R163). -/

namespace Sys2Proof.Machine

/-! ### The address map (R65 to R70) -/

/-- The fourteen registers of R65. -/
inductive HostReg where
  | id | version | ctrl | cmd | status | inLen | pkLen | bitLen | decLen | total | slistLen | nodeCnt
  | root | bitCnt
deriving DecidableEq, Repr

/-- A mapped word of the address map. -/
inductive Loc where
  | reg (r : HostReg)
  | cnt (s : Fin 128)                    -- CNT[s]
  | slistSym (i : Fin 128)               -- SLIST[i] +0x0
  | slistLo (i : Fin 128)                -- SLIST[i] +0x4, prob[31:0]
  | slistHi (i : Fin 128)                -- SLIST[i] +0x8, prob[63:32]
  | node (n : Fin 255) (w : Fin 4)       -- NODE[n] word w
  | code (s : Fin 128) (w : Fin 5)       -- CODE[s] word w
  | buf (b : Buffer) (w : Nat)           -- word w of a buffer's window
deriving DecidableEq, Repr

/-- BASE: the byte address of offset 0, aligned to 2^27 (R65). -/
def busBase (p : Params) : Word := (p.baseIndex ++ 0#27 : BitVec 32)

/-- The byte offset of a host address from BASE, modulo 2^32 (R65; log 10). -/
def busOffset (p : Params) (addr : Word) : Nat := (addr - busBase p).toNat

/-- The register at a word index of the first range of R65. -/
def HostReg.ofIndex (k : Nat) : Option HostReg :=
  match k with
  | 0 => some .id
  | 1 => some .version
  | 2 => some .ctrl
  | 3 => some .cmd
  | 4 => some .status
  | 5 => some .inLen
  | 6 => some .pkLen
  | 7 => some .bitLen
  | 8 => some .decLen
  | 9 => some .total
  | 10 => some .slistLen
  | 11 => some .nodeCnt
  | 12 => some .root
  | 13 => some .bitCnt
  | _ => none

/-- The buffer whose window has index `k`, windows being 16 MiB each (R65, R66). -/
def Buffer.ofWindow (k : Nat) : Option Buffer :=
  match k with
  | 1 => some .inp
  | 2 => some .pk
  | 3 => some .bits
  | 4 => some .dec
  | _ => none

/-- The number of words of a window that are in range: ceil(MAX / 4) (R66). -/
def Buffer.words (p : Params) (b : Buffer) : Nat := (b.capacity p + 3) / 4

/-- The word of SLIST[i] at a word index; +0xC is unmapped (R68). -/
def slistLoc (i : Fin 128) (w : Nat) : Option Loc :=
  match w with
  | 0 => some (.slistSym i)
  | 1 => some (.slistLo i)
  | 2 => some (.slistHi i)
  | _ => none

/-- The mapped word of a buffer window at an offset, if it is in range (R66). -/
def bufferLoc (p : Params) (off : Nat) : Option Loc :=
  match Buffer.ofWindow (off / 2 ^ 24) with
  | some b => if off % 2 ^ 24 / 4 < b.words p then some (.buf b (off % 2 ^ 24 / 4)) else none
  | none => none

/-- The mapped word at a byte offset, or none where the offset is misaligned, unmapped or out of range
(R65 to R70, R74). -/
def locOf (p : Params) (off : Nat) : Option Loc :=
  if off % 4 ≠ 0 then none
  else if off < 0x200 then (HostReg.ofIndex (off / 4)).map .reg
  else if h : off < 0x400 then some (.cnt ⟨(off - 0x200) / 4, by omega⟩)
  else if off < 0x800 then none
  else if h : off < 0x1000 then slistLoc ⟨(off - 0x800) / 16, by omega⟩ (off % 16 / 4)
  else if h : off < 0x1FF0 then
    some (.node ⟨(off - 0x1000) / 16, by omega⟩ ⟨off % 16 / 4, by omega⟩)
  else if off < 0x2000 then none
  else if h : off < 0x3000 then
    if h5 : off % 32 / 4 < 5 then some (.code ⟨(off - 0x2000) / 32, by omega⟩ ⟨off % 32 / 4, h5⟩)
    else none
  else bufferLoc p off

/-- The mapped word at a host address. -/
def locAt (p : Params) (addr : Word) : Option Loc := locOf p (busOffset p addr)

/-- The byte offset of a register (R65). -/
def HostReg.offset : HostReg → Nat
  | .id => 0x000
  | .version => 0x004
  | .ctrl => 0x008
  | .cmd => 0x00C
  | .status => 0x010
  | .inLen => 0x014
  | .pkLen => 0x018
  | .bitLen => 0x01C
  | .decLen => 0x020
  | .total => 0x024
  | .slistLen => 0x028
  | .nodeCnt => 0x02C
  | .root => 0x030
  | .bitCnt => 0x034

/-- The byte offset of a mapped word (R65, R67 to R70). -/
def Loc.offset : Loc → Nat
  | .reg r => r.offset
  | .cnt s => 0x200 + 4 * s
  | .slistSym i => 0x800 + 16 * i
  | .slistLo i => 0x804 + 16 * i
  | .slistHi i => 0x808 + 16 * i
  | .node n w => 0x1000 + 16 * n + 4 * w
  | .code s w => 0x2000 + 32 * s + 4 * w
  | .buf b w => b.base + 4 * w

/-- The host address of a mapped word: BASE plus its offset (R93). -/
def Loc.addr (p : Params) (l : Loc) : Word := busBase p + BitVec.ofNat 32 l.offset

/-! ### Reading (R27 to R30, R67 to R70) -/

/-- ID (R27). -/
def idValue : Word := 0x48554646

/-- VERSION (R28). -/
def versionValue : Word := 0x00000001

/-- The value of a register (10_state.md §2 to §4). -/
def State.readReg (s : State) : HostReg → Word
  | .id => idValue
  | .version => versionValue
  | .ctrl => s.ctrl.word
  | .cmd => 0
  | .status => s.statusWord
  | .inLen => s.inLen
  | .pkLen => s.pkLen
  | .bitLen => s.bitLen
  | .decLen => s.decLen
  | .total => s.total
  | .slistLen => s.slistLen
  | .nodeCnt => s.nodeCnt
  | .root => s.root.setWidth 32
  | .bitCnt => s.bitCnt

/-- A lane of a buffer word: the element, or 0 at or above the capacity (R67). -/
def State.lane (s : State) (b : Buffer) (i : Nat) : Byte :=
  if i < b.capacity s.params then s.elem b i else 0

/-- Word `w` of a buffer: element 4w in the least significant byte (R67). -/
def State.bufferWord (s : State) (b : Buffer) (w : Nat) : Word :=
  (s.lane b (4 * w + 3) ++ s.lane b (4 * w + 2) ++ s.lane b (4 * w + 1) ++ s.lane b (4 * w)
    : BitVec 32)

/-- Word `w` of a NODE element (R69). -/
def NodeEntry.word (e : NodeEntry) (w : Fin 4) : Word :=
  match w with
  | 0 => (BitVec.ofBool e.leaf ++ 0#24 ++ e.sym : BitVec 32)
  | 1 => (0#16 ++ e.right ++ e.left : BitVec 32)
  | 2 => e.prob.extractLsb' 0 32
  | 3 => e.prob.extractLsb' 32 32

/-- Word `w` of a CODE element (R70). -/
def CodeEntry.word (e : CodeEntry) (w : Fin 5) : Word :=
  match w with
  | 0 => e.len.setWidth 32
  | 1 => e.bits.extractLsb' 0 32
  | 2 => e.bits.extractLsb' 32 32
  | 3 => e.bits.extractLsb' 64 32
  | 4 => e.bits.extractLsb' 96 32

/-- The value of a mapped word. -/
def State.readLoc (s : State) : Loc → Word
  | .reg r => s.readReg r
  | .cnt x => s.cnt[x]
  | .slistSym i => s.slist[i].sym.setWidth 32
  | .slistLo i => s.slist[i].prob.extractLsb' 0 32
  | .slistHi i => s.slist[i].prob.extractLsb' 32 32
  | .node n w => s.node[n].word w
  | .code x w => s.code[x].word w
  | .buf b w => s.bufferWord b w

/-- The registers whose value a host read gives even during BUSY (R81). -/
def Loc.readableWhenBusy : Loc → Bool
  | .reg .id | .reg .version | .reg .ctrl | .reg .cmd | .reg .status => true
  | _ => false

/-- A host read of one word: the value and the state after it.
An unmapped read gives 0 and sets ACCESS_ERR (R75); during BUSY a location outside R81's list gives a
fresh free value; nothing else changes (R77). -/
def State.hostRead (s : State) (addr : Word) : Word × State :=
  match locAt s.params addr with
  | none => (0, s.reject)
  | some l =>
    if s.busy && !l.readableWhenBusy then
      (Config.freeRead s.draws, { s with draws := s.draws + 1 })
    else (s.readLoc l, s)

/-! ### Writing (R29 to R31, R43 to R48, R67, R68, R75, R76, R163) -/

/-- A lane of a buffer word written by the host: ignored at or above the capacity (R67). -/
def State.setLane (s : State) (b : Buffer) (i : Nat) (v : Byte) : State :=
  if i < b.capacity s.params then { s with mem := s.mem.set (b.base + i) v } else s

/-- A host write of word `w` of a buffer: all four lanes (R67). -/
def State.setBufferWord (s : State) (b : Buffer) (w : Nat) (v : Word) : State :=
  (((s.setLane b (4 * w) (v.extractLsb' 0 8)).setLane b (4 * w + 1) (v.extractLsb' 8 8)).setLane
    b (4 * w + 2) (v.extractLsb' 16 8)).setLane b (4 * w + 3) (v.extractLsb' 24 8)

/-- The acceptance of a CMD write (R140): the command starts, with the next latency; an illegal word starts
like any other and completes at once (R89). -/
def State.acceptCommand (s : State) (w : Word) : State :=
  { s.start w (s.latencyOf w) with latencies := s.latenciesAfter w }

/-- A host write to a register while BUSY = 0. Read-only registers reject it (R76). -/
def State.writeReg (s : State) (r : HostReg) (v : Word) : State :=
  match r with
  | .ctrl => { s with ctrl := Ctrl.ofWord v }
  | .cmd => s.acceptCommand v
  | .status => s.acknowledge v
  | .inLen => { s with inLen := v }
  | .pkLen => { s with pkLen := v }
  | .bitLen => { s with bitLen := v }
  | .slistLen => { s with slistLen := v }
  | .id | .version | .decLen | .total | .nodeCnt | .root | .bitCnt => s.reject

/-- A host write to a mapped word while BUSY = 0. -/
def State.writeLoc (s : State) (l : Loc) (v : Word) : State :=
  match l with
  | .reg r => s.writeReg r v
  | .slistSym i => { s with slist := s.slist.set i { s.slist[i] with sym := v.setWidth 7 } }
  | .slistLo i =>
    { s with slist := s.slist.set i { s.slist[i] with prob := s.slist[i].prob.extractLsb' 32 32 ++ v } }
  | .slistHi i =>
    { s with slist := s.slist.set i { s.slist[i] with prob := v ++ s.slist[i].prob.extractLsb' 0 32 } }
  | .buf b w => if b.hostWritable then s.setBufferWord b w v else s.reject
  | .cnt _ | .node _ _ | .code _ _ => s.reject

/-- A host write of one word.
During BUSY only STATUS is honoured; every other write is dropped with ACCESS_ERR (R163). An unmapped
write only sets ACCESS_ERR (R75). -/
def State.hostWrite (s : State) (addr v : Word) : State :=
  match locAt s.params addr with
  | none => s.reject
  | some l =>
    if s.busy then (if l = .reg .status then s.acknowledge v else s.reject)
    else s.writeLoc l v

end Sys2Proof.Machine
end

