-- ==== Sys2Proof/Machine/Agents.lean ====
section
/-! DEFINITION. The turns of the host and of the reset input (R21, R79, R94, R157, R160, R164). -/

namespace Sys2Proof.Machine

/-- The assertion of the reset input (R157, R158, R160): every element takes its reset value, whatever
the phase; RAM takes fresh free values. The environment keeps what it still has to do. -/
def State.resetEvent (s : State) : State :=
  { State.resetWith s.params (s.epoch + 1) with
    draws := s.draws, latencies := s.latencies, host := s.host, resets := s.resets, reads := s.reads }

/-- One host operation is done. -/
def State.hostDone (s : State) (rest : List HostOp) : State := { s with host := rest }

/-- One host read is done, with the word it returned. -/
def State.readDone (s : State) (rest : List HostOp) (v : Word) : State :=
  { s with host := rest, reads := v :: s.reads }

/-- The host's turn: its next operation, if it has one (R79, R93, R94).
WAIT goes on only when BUSY = 0 and the wait for the interrupt only when irq = 1 (R164). A host that
waits for an interrupt which nothing can raise is stuck (U15). Only 32-bit accesses exist (R73, U14). -/
def hostTurn (s : State) : Host.Outcome State Fault Refusal :=
  match s.host with
  | [] => .next s
  | .pass :: rest => .next (s.hostDone rest)
  | .wait :: rest => if s.busy then .next s else .next (s.hostDone rest)
  | .waitIrq :: rest =>
    if s.irq then .next (s.hostDone rest)
    else if s.busy || !s.resets.isEmpty then .next s
    else .fault .hostStuck
  | .read addr size :: rest =>
    if size = 4 then .next ((s.hostRead addr).2.readDone rest (s.hostRead addr).1)
    else .refused (.accessWidth size)
  | .write addr size v :: rest =>
    if size = 4 then .next ((s.hostWrite addr v).hostDone rest)
    else .refused (.accessWidth size)

end Sys2Proof.Machine
end

