-- ==== Sys2Proof/Machine/Operands.lean ====
section
/-! DEFINITION. The implicit operands of the commands (R91, R92): symbols, table elements and bit
sequences as the commands read them. -/

namespace Sys2Proof.Machine

/-- A byte of IN is a symbol exactly when its bit 7 is 0 (R95). -/
def isSymbol (b : Byte) : Bool := !b.getLsbD 7

/-- The symbol value of a byte: bits 6:0 (R95). -/
def symOf (b : Byte) : Sym := b.setWidth 7

/-- All symbols, ascending. -/
def allSyms : List Sym := (List.range 128).map (BitVec.ofNat 7)

/-- CNT[s]. -/
def countOf (cnt : Vector Word 128) (x : Sym) : Word := cnt[x.toNat]'(x.isLt)

/-- CODE[s]. -/
def codeOf (code : Vector CodeEntry 128) (x : Sym) : CodeEntry := code[x.toNat]'(x.isLt)

/-- NODE[n]. The arena has no element 255 (R69); no rule reads one, since child indices of a valid tree
are below NODE_CNT - 1 (R62(b), R109), and the model gives an empty leaf there (log 12). -/
def nodeAt (node : Vector NodeEntry 255) (n : Nat) : NodeEntry :=
  (node[n]?).getD { leaf := true, sym := 0, prob := 0, left := 0, right := 0 }

/-- The code of an element of CODE as a bit string, its first bit first: `c[j] = bits[len-1-j]`
(R56, R123). -/
def codeBits (c : CodeEntry) : List Bool :=
  (List.range c.len.toNat).map fun j => c.bits.getLsbD (c.len.toNat - 1 - j)

/-- The bit character of a bit: 0x30 for 0, 0x31 for 1 (R122). -/
def bitChar (b : Bool) : Byte := if b then 0x31 else 0x30

/-- The two legal bit characters (R122). -/
def isBitChar (c : Byte) : Bool := c == 0x30 || c == 0x31

/-- The bit a legal bit character stands for (R122, R124). -/
def charBit (c : Byte) : Bool := c == 0x31

/-- The number whose binary digits are the given bits, the first one most significant. -/
def bitsValue (l : List Bool) : Nat := l.foldl (fun v b => 2 * v + b.toNat) 0

/-- Groups of eight bits as bytes, the first bit of a group its most significant (R119).
A rest of fewer than eight bits gives no byte; rule R119 leaves none. -/
def groupBytes : List Bool → List Byte
  | b0 :: b1 :: b2 :: b3 :: b4 :: b5 :: b6 :: b7 :: rest =>
    BitVec.ofNat 8 (bitsValue [b0, b1, b2, b3, b4, b5, b6, b7]) :: groupBytes rest
  | _ => []

/-- The bits of a byte, most significant first (R125). -/
def byteBits (b : Byte) : List Bool := (List.range 8).map fun t => b.getLsbD (7 - t)

/-- Bit expansion of a byte sequence (R125). -/
def expandBytes (l : List Byte) : List Bool := l.flatMap byteBits

end Sys2Proof.Machine
end

