-- ==== Sys2Proof/Machine/Codes.lean ====
section
/-! DEFINITION. The code-table generator: BUILD_CODES (42_codes.md). -/

namespace Sys2Proof.Machine

/-- `walk(n, d, v)` of R115: pre-order, left first.
The fuel bounds the depth: no leaf of a valid tree is deeper than 127 (R109), so 128 levels are enough;
beyond them, in states that R62(b) rules out, the walk stops (log 13). -/
def walk (node : Vector NodeEntry 255) :
    Nat → BitVec 8 → BitVec 8 → BitVec 128 → Vector CodeEntry 128 → Vector CodeEntry 128
  | 0, _, _, _, table => table
  | fuel + 1, n, d, v, table =>
    let e := nodeAt node n.toNat
    if e.leaf then table.set e.sym.toNat { len := d, bits := v } e.sym.isLt
    else walk node fuel e.right (d + 1) (2 * v + 1) (walk node fuel e.left (d + 1) (2 * v) table)

/-- The encoding table of a tree (R114, R115): every entry absent, then the leaves' codes. -/
def codeTable (node : Vector NodeEntry 255) (root : BitVec 8) : Vector CodeEntry 128 :=
  walk node 128 root 0 0 (Vector.replicate 128 { len := 0, bits := 0 })

/-- BUILD_CODES (R115). -/
def buildCodesStage : Stage := fun s =>
  if s.status.treeValid then
    .ok { s with code := codeTable s.node s.root, status := s.status.withNewCodes }
  else .error .noTree

/-- BUILD_CODES: the meaning of the command. -/
def execBuildCodes (s : State) : Host.Outcome State Fault Refusal := primitive buildCodesStage s

end Sys2Proof.Machine
end

