-- ==== Sys2Proof/Machine/Binary64.lean ====
section
/-! DEFINITION. IEEE 754 binary64 on 64-bit patterns: conversion, addition, division and comparison, all
rounded to nearest, ties to even (R14, R15). -/

namespace Sys2Proof.Machine

/-- +0.0 (R14). -/
def probZero : Pattern := 0x0000000000000000

/-- 1.0 (R14). -/
def probOne : Pattern := 0x3FF0000000000000

/-- The sign bit, bit 63. -/
def f64Sign (p : Pattern) : Bool := p.getLsbD 63

/-- The biased exponent, bits 62:52. -/
def f64Exp (p : Pattern) : Nat := (p.extractLsb' 52 11).toNat

/-- The fraction, bits 51:0. -/
def f64Frac (p : Pattern) : Nat := (p.extractLsb' 0 52).toNat

/-- A NaN: exponent 0x7FF and a non-zero fraction (R104, G1). -/
def f64IsNaN (p : Pattern) : Bool := f64Exp p == 0x7FF && f64Frac p != 0

/-- An infinity: exponent 0x7FF and a zero fraction. -/
def f64IsInf (p : Pattern) : Bool := f64Exp p == 0x7FF && f64Frac p == 0

/-- The magnitude of a finite pattern as a multiple of 2^-1074, the least positive binary64 value. -/
def f64Units (p : Pattern) : Nat :=
  if f64Exp p = 0 then f64Frac p else (2 ^ 52 + f64Frac p) * 2 ^ (f64Exp p - 1)

/-- The pattern of a non-negative magnitude, with a sign. -/
def f64WithSign (neg : Bool) (p : Pattern) : Pattern := BitVec.ofBool neg ++ p.extractLsb' 0 63

/-- +infinity. -/
def f64Inf : Pattern := 0x7FF0000000000000

/-- The NaN that an invalid operation gives: its sign and payload are free (log 11). -/
def f64NaN (a b : Pattern) : Pattern := Config.freeNaN a b ||| 0x7FF8000000000000

/-- The quotient `n / d` rounded to the nearest natural, a tie to the even one. -/
def roundDiv (n d : Nat) : Nat :=
  n / d + (if d < 2 * (n % d) ∨ (2 * (n % d) = d ∧ n / d % 2 = 1) then 1 else 0)

/-- The binary64 value nearest to `n / d` times 2^-1074, ties to even; +infinity on overflow.
With `e` the number of bits that do not fit a 53-bit significand, the rounded significand plus
`e * 2^52` is the pattern: exponents and fractions are adjacent, so a carry out of the fraction is the
next exponent. -/
def f64Round (n d : Nat) : Pattern :=
  let e := (n / d).log2 - 52
  let m := e * 2 ^ 52 + roundDiv n (d * 2 ^ e)
  if m < 0x7FF0000000000000 then BitVec.ofNat 64 m else f64Inf

/-- `u2f(n)`: a natural below 2^53, exactly (R15). -/
def u2f (n : Nat) : Pattern := f64Round (n * 2 ^ 1074) 1

/-- The value of a finite pattern as a multiple of 2^-1074, with its sign. -/
def f64Value (p : Pattern) : Int := if f64Sign p then -(f64Units p : Int) else (f64Units p : Int)

/-- `f64_add(a, b)` (R15). -/
def f64Add (a b : Pattern) : Pattern :=
  if f64IsNaN a || f64IsNaN b then f64NaN a b
  else if f64IsInf a then (if f64IsInf b && f64Sign a != f64Sign b then f64NaN a b else a)
  else if f64IsInf b then b
  else
    let v := f64Value a + f64Value b
    if v = 0 then f64WithSign (f64Sign a && f64Sign b) probZero
    else f64WithSign (decide (v < 0)) (f64Round v.natAbs 1)

/-- `f64_div(a, b)` (R15). -/
def f64Div (a b : Pattern) : Pattern :=
  let neg := f64Sign a != f64Sign b
  if f64IsNaN a || f64IsNaN b then f64NaN a b
  else if f64IsInf a then (if f64IsInf b then f64NaN a b else f64WithSign neg f64Inf)
  else if f64IsInf b then f64WithSign neg probZero
  else if f64Units b = 0 then (if f64Units a = 0 then f64NaN a b else f64WithSign neg f64Inf)
  else f64WithSign neg (f64Round (f64Units a * 2 ^ 1074) (f64Units b))

/-- A pattern's place in the order of the values: its magnitude bits with its sign. -/
def f64Key (p : Pattern) : Int :=
  if f64Sign p then -((p.extractLsb' 0 63).toNat : Int) else ((p.extractLsb' 0 63).toNat : Int)

/-- `f64_le(a, b)`: the IEEE 754 comparison, false where an operand is a NaN (R15). -/
def f64Le (a b : Pattern) : Bool :=
  !f64IsNaN a && !f64IsNaN b && decide (f64Key a ≤ f64Key b)

end Sys2Proof.Machine
end

