-- ==== Sys2Proof/Machine/Frequency.lean ====
section
/-! DEFINITION. The frequency counter and sorter: COUNT and SORT (40_frequency.md). -/

namespace Sys2Proof.Machine

/-- One occurrence of a symbol more (R96). -/
def bump (cnt : Vector Word 128) (x : Sym) : Vector Word 128 :=
  cnt.set x.toNat (countOf cnt x + 1) x.isLt

/-- The counting pass of R96: every count from 0, one symbol at a time. -/
def countSymbols (xs : List Byte) : Vector Word 128 :=
  xs.foldl (fun cnt b => bump cnt (symOf b)) (Vector.replicate 128 0)

/-- COUNT (R96): BAD_LENGTH is checked first, then INVALID_SYMBOL. -/
def countStage : Stage := fun s =>
  if s.params.maxIn.size < s.inLen.toNat then .error .badLength
  else if (s.elems .inp s.inLen.toNat).any (fun b => !isSymbol b) then .error .invalidSymbol
  else .ok { s with
    cnt := countSymbols (s.elems .inp s.inLen.toNat)
    total := s.inLen
    status := s.status.setEmpty (s.inLen == 0) }

/-- The entry of a present symbol (R98). -/
def freqEntry (cnt : Vector Word 128) (total : Word) (x : Sym) : FreqEntry where
  sym  := x
  prob := f64Div (u2f (countOf cnt x).toNat) (u2f total.toNat)

/-- The present symbols, ascending: the list P of R102. -/
def presentSyms (cnt : Vector Word 128) : List Sym :=
  allSyms.filter fun x => countOf cnt x != 0

/-- The degenerate-alphabet rule (R99): a single entry is followed by a synthetic one for the next symbol
value, wrapping 127 to 0, with probability 0.0. -/
def withSynthetic : List FreqEntry → List FreqEntry
  | [e] => [e, { sym := e.sym + 1, prob := probZero }]
  | l => l

/-- The sort order (R100, R102): ascending by probability as an unsigned pattern, then by symbol. -/
abbrev FreqEntry.precedes (a b : FreqEntry) : Prop :=
  a.prob.toNat < b.prob.toNat ∨ (a.prob = b.prob ∧ a.sym.toNat ≤ b.sym.toNat)

/-- The entries that SORT writes: the list E of R102. -/
def sortedEntries (cnt : Vector Word 128) (total : Word) : List FreqEntry :=
  (withSynthetic ((presentSyms cnt).map (freqEntry cnt total))).insertionSort FreqEntry.precedes

/-- SORT (R102). It never fails. -/
def sortStage : Stage := fun s =>
  if s.total = 0 then
    .ok { s with slistLen := 0, status := (s.status.setEmpty true).setDegenerate false }
  else
    .ok { s with
      slist := overlay s.slist (sortedEntries s.cnt s.total)
      slistLen := BitVec.ofNat 32 (sortedEntries s.cnt s.total).length
      status := (s.status.setEmpty false).setDegenerate ((presentSyms s.cnt).length == 1) }

/-- COUNT: the meaning of the command. -/
def execCount (s : State) : Host.Outcome State Fault Refusal := primitive countStage s

/-- SORT: the meaning of the command. -/
def execSort (s : State) : Host.Outcome State Fault Refusal := primitive sortStage s

end Sys2Proof.Machine
end

