-- ==== Sys2Proof/Machine/Pack.lean ====
section
/-! DEFINITION. The bit packer and the encode path: ENCODE and PACK (43_pack.md). -/

namespace Sys2Proof.Machine

/-- The padding header of a payload of `len` bits: k-1 zeros and the marker 1, k = 8 - len mod 8
(R119). -/
def paddingHeader (len : Nat) : List Bool := List.replicate (8 - len % 8 - 1) false ++ [true]

/-- `packbits(b)` of R119. -/
def packBits (b : List Bool) : List Byte := groupBytes (paddingHeader b.length ++ b)

/-- The number of bytes of a packed payload of `len` bits: `P div 8 + 1` (R120, R123, R124). -/
def packedSize (len : Nat) : Nat := len / 8 + 1

/-- The commit of a packed payload: PK[0..N-1], PK_LEN and BITCNT (R123, R124). -/
def State.commitPacked (s : State) (b : List Bool) : State :=
  { s.setElems .pk (packBits b) with
    pkLen := BitVec.ofNat 32 (packedSize b.length)
    bitCnt := BitVec.ofNat 32 b.length }

/-- The validation pass of ENCODE (R123): the payload length, or the failure at the lowest index that
fails, where INVALID_SYMBOL is checked before NO_CODE. -/
def payloadLength (code : Vector CodeEntry 128) : List Byte → Except ErrCode Nat
  | [] => .ok 0
  | b :: bs =>
    if isSymbol b then
      if (codeOf code (symOf b)).len = 0 then .error .noCode
      else
        match payloadLength code bs with
        | .ok p => .ok ((codeOf code (symOf b)).len.toNat + p)
        | .error c => .error c
    else .error .invalidSymbol

/-- The payload of ENCODE: the codes of the symbols of IN, in input order (R123). -/
def payloadBits (code : Vector CodeEntry 128) (xs : List Byte) : List Bool :=
  xs.flatMap fun b => codeBits (codeOf code (symOf b))

/-- ENCODE (R123). An empty input needs no table and packs the empty payload. -/
def encodeStage : Stage := fun s =>
  if s.params.maxIn.size < s.inLen.toNat then .error .badLength
  else if s.inLen = 0 then .ok (s.commitPacked [])
  else if s.status.codesValid then
    match payloadLength s.code (s.elems .inp s.inLen.toNat) with
    | .error c => .error c
    | .ok p =>
      if s.params.maxPk.size < packedSize p then .error .outOverflow
      else .ok (s.commitPacked (payloadBits s.code (s.elems .inp s.inLen.toNat)))
  else .error .noTable

/-- PACK (R124). -/
def packStage : Stage := fun s =>
  if s.params.maxBits.size < s.bitLen.toNat then .error .badLength
  else if (s.elems .bits s.bitLen.toNat).any (fun c => !isBitChar c) then .error .invalidBitChar
  else if s.params.maxPk.size < packedSize s.bitLen.toNat then .error .outOverflow
  else .ok (s.commitPacked ((s.elems .bits s.bitLen.toNat).map charBit))

/-- ENCODE: the meaning of the command. -/
def execEncode (s : State) : Host.Outcome State Fault Refusal := primitive encodeStage s

/-- PACK: the meaning of the command. -/
def execPack (s : State) : Host.Outcome State Fault Refusal := primitive packStage s

end Sys2Proof.Machine
end

