-- ==== Sys2Proof/Machine/Tree.lean ====
section
/-! DEFINITION. The tree builder, a merge of two FIFO queues: BUILD_TREE (41_tree.md). -/

namespace Sys2Proof.Machine

/-- Entries 0..L-1 of SLIST, the list that BUILD_TREE reads. -/
def State.sortedList (s : State) : List FreqEntry := s.slist.toList.take s.slistLen.toNat

/-- A probability that R104 accepts: sign bit 0 and not a NaN. -/
def probAccepted (p : Pattern) : Bool := !f64Sign p && !f64IsNaN p

/-- The leaf of a frequency entry (R105). -/
def leafOf (e : FreqEntry) : NodeEntry :=
  { leaf := true, sym := e.sym, prob := e.prob, left := 0, right := 0 }

/-- The arena and the queues during a merge: the source queue is NODE[sh..L-1], the target queue
NODE[th..tt-1] (R105). -/
structure Merge where
  node : Vector NodeEntry 255
  sh   : Nat
  th   : Nat
  tt   : Nat
deriving DecidableEq, Repr

/-- The queues before the first merge step (R105). -/
def Merge.begin (node : Vector NodeEntry 255) (l : List FreqEntry) : Merge where
  node := overlay node (l.map leafOf)
  sh   := 0
  th   := l.length
  tt   := l.length

/-- Takes the source head. -/
def Merge.fromSource (m : Merge) : Nat × Merge := (m.sh, { m with sh := m.sh + 1 })

/-- Takes the target head. -/
def Merge.fromTarget (m : Merge) : Nat × Merge := (m.th, { m with th := m.th + 1 })

/-- Head selection, `take()` of R106: smaller-or-equal favours the source. -/
def Merge.take (len : Nat) (m : Merge) : Nat × Merge :=
  if m.th = m.tt then m.fromSource
  else if m.sh = len then m.fromTarget
  else if f64Le (nodeAt m.node m.sh).prob (nodeAt m.node m.th).prob then m.fromSource
  else m.fromTarget

/-- The internal node of two dequeued nodes, the first the left child (R107). -/
def joinNodes (node : Vector NodeEntry 255) (l r : Nat) : NodeEntry where
  leaf  := false
  sym   := 0
  prob  := f64Add (nodeAt node l).prob (nodeAt node r).prob
  left  := BitVec.ofNat 8 l
  right := BitVec.ofNat 8 r

/-- One merge step (R107). -/
def Merge.step (len : Nat) (m : Merge) : Merge :=
  let (l, m1) := m.take len
  let (r, m2) := m1.take len
  { m2 with node := m2.node.setIfInBounds m2.tt (joinNodes m2.node l r), tt := m2.tt + 1 }

/-- The end of the merge: one node is left across both queues (R107). -/
def Merge.finished (len : Nat) (m : Merge) : Bool := m.sh == len && m.tt - m.th == 1

/-- The loop of R107. It runs exactly L-1 times (R109), which is the fuel its caller gives. -/
def Merge.loop (len : Nat) : Nat → Merge → Merge
  | 0, m => m
  | fuel + 1, m => if m.finished len then m else Merge.loop len fuel (m.step len)

/-- The whole merge of a list (R105, R107). -/
def mergeList (node : Vector NodeEntry 255) (l : List FreqEntry) : Merge :=
  Merge.loop l.length (l.length - 1) (Merge.begin node l)

/-- BUILD_TREE (R108), its checks in the order of R104. -/
def buildTreeStage : Stage := fun s =>
  if s.slistLen.toNat < 2 then .error .listTooSmall
  else if 128 < s.slistLen.toNat then .error .badList
  else if s.sortedList.any (fun e => !probAccepted e.prob) then .error .badList
  else if ¬ (s.sortedList.map FreqEntry.sym).Nodup then .error .badList
  else
    .ok { s with
      node := (mergeList s.node s.sortedList).node
      nodeCnt := BitVec.ofNat 32 (mergeList s.node s.sortedList).tt
      root := BitVec.ofNat 8 ((mergeList s.node s.sortedList).tt - 1)
      status := s.status.withNewTree }

/-- BUILD_TREE: the meaning of the command. -/
def execBuildTree (s : State) : Host.Outcome State Fault Refusal := primitive buildTreeStage s

end Sys2Proof.Machine
end

