-- ==== Sys2Proof/Machine/Control.lean ====
section
/-! DEFINITION. The shell and orchestration commands: NOP, CLEAR, ENCODE_ALL and BUILD
(45_control.md). -/

namespace Sys2Proof.Machine

/-- NOP (R133): nothing but the completion. -/
def nopStage : Stage := fun s => .ok s

/-- CLEAR (R134): every element of R161's table that it names; CTRL and the RAMs keep their values. -/
def clearStage : Stage := fun s =>
  .ok { s with
    inLen := 0, pkLen := 0, bitLen := 0, decLen := 0, total := 0, slistLen := 0, nodeCnt := 0,
    root := 0, bitCnt := 0
    cnt := Vector.replicate 128 0
    status := s.status.cleared }

/-- The two tree stages of ENCODE_ALL, which run when SORT left a list of at least two entries
(R135). -/
def Run.treeStages (r : Run) : Run :=
  if 2 ≤ r.state.slistLen.toNat then (r.stage buildTreeStage).stage buildCodesStage else r

/-- The stages of ENCODE_ALL (R135). -/
def encodeAllRun (s : State) : Run :=
  (((Run.begin s).stage countStage).stage sortStage).treeStages.stage encodeStage

/-- The stages of BUILD (R136). -/
def buildRun (s : State) : Run := ((Run.begin s).stage buildTreeStage).stage buildCodesStage

/-- NOP: the meaning of the command. -/
def execNop (s : State) : Host.Outcome State Fault Refusal := primitive nopStage s

/-- CLEAR: the meaning of the command. -/
def execClear (s : State) : Host.Outcome State Fault Refusal := primitive clearStage s

/-- ENCODE_ALL: the meaning of the command. -/
def execEncodeAll (s : State) : Host.Outcome State Fault Refusal := .next (encodeAllRun s).complete

/-- BUILD: the meaning of the command. -/
def execBuild (s : State) : Host.Outcome State Fault Refusal := .next (buildRun s).complete

end Sys2Proof.Machine
end

