-- ==== Sys2Proof/Machine/Unpack.lean ====
section
/-! DEFINITION. The bit unpacker and the decoder traversal: UNPACK and DECODE (44_unpack.md). -/

namespace Sys2Proof.Machine

/-- Payload extraction over an expanded bit sequence (R126): the payload and the fallback flag.
The marker is looked for in the first 8 bits only; without one, min(8, B) bits are stripped. -/
def payloadOf (e : List Bool) : List Bool × Bool :=
  match (e.take 8).findIdx? id with
  | some m => (e.drop (m + 1), false)
  | none => (e.drop (min 8 e.length), true)

/-- `payload(N)` of R126 over PK[0..N-1], N = PK_LEN. -/
def State.payload (s : State) : List Bool × Bool :=
  payloadOf (expandBytes (s.elems .pk s.pkLen.toNat))

/-- UNPACK (R127). -/
def unpackStage : Stage := fun s =>
  if s.params.maxPk.size < s.pkLen.toNat then .error .badLength
  else if s.params.maxBits.size < s.payload.1.length then .error .outOverflow
  else .ok { s.setElems .bits (s.payload.1.map bitChar) with
    bitLen := BitVec.ofNat 32 s.payload.1.length
    bitCnt := BitVec.ofNat 32 s.payload.1.length
    status := s.status.setPadFallback s.payload.2 }

/-- The child that a bit moves the cursor to: left on 0, right on 1 (R129). -/
def childOf (node : Vector NodeEntry 255) (cur : BitVec 8) (bit : Bool) : BitVec 8 :=
  if bit then (nodeAt node cur.toNat).right else (nodeAt node cur.toNat).left

/-- The traversal of R129 from a cursor: the symbols it emits, and where the cursor ends. -/
def traverse (node : Vector NodeEntry 255) (root : BitVec 8) :
    BitVec 8 → List Bool → List Sym × BitVec 8
  | cur, [] => ([], cur)
  | cur, b :: bs =>
    let next := childOf node cur b
    if (nodeAt node next.toNat).leaf then
      let (out, last) := traverse node root root bs
      ((nodeAt node next.toNat).sym :: out, last)
    else traverse node root next bs

/-- The symbols that DECODE emits and the final cursor. -/
def State.decoded (s : State) : List Sym × BitVec 8 :=
  traverse s.node s.root s.root s.payload.1

/-- DECODE (R130). An empty payload needs no tree. -/
def decodeStage : Stage := fun s =>
  if s.params.maxPk.size < s.pkLen.toNat then .error .badLength
  else if s.payload.1 = [] then
    .ok { s with
      decLen := 0
      bitCnt := 0
      status := (s.status.setPadFallback s.payload.2).setTrailing false }
  else if s.status.treeValid then
    if s.params.maxDec.size < s.decoded.1.length then .error .outOverflow
    else .ok { s.setElems .dec (s.decoded.1.map (BitVec.setWidth 8)) with
      decLen := BitVec.ofNat 32 s.decoded.1.length
      bitCnt := BitVec.ofNat 32 s.payload.1.length
      status := (s.status.setPadFallback s.payload.2).setTrailing (s.decoded.2 != s.root) }
  else .error .noTree

/-- UNPACK: the meaning of the command. -/
def execUnpack (s : State) : Host.Outcome State Fault Refusal := primitive unpackStage s

/-- DECODE: the meaning of the command. -/
def execDecode (s : State) : Host.Outcome State Fault Refusal := primitive decodeStage s

end Sys2Proof.Machine
end

