-- ==== Sys2Proof/Machine/Step.lean ====
section
/-! DEFINITION. One step of the machine: a reset, the completion of the running command, or one turn of
the host, in that order of precedence (R21, R26, R80, R145, R160; log 5). -/

namespace Sys2Proof.Machine

/-- The completion step of the command word that the engine holds (R89, R141). -/
def completeWord (w : Word) (s : State) : Host.Outcome State Fault Refusal :=
  match decode w with
  | .ok i => exec i s
  | .error _ => illegalCommand s

/-- A step in which no reset is asserted. -/
def stepNoReset (s : State) : Host.Outcome State Fault Refusal :=
  match s.phase with
  | .idle => hostTurn s
  | .busy w 0 => completeWord w s
  | .busy w (left + 1) => hostTurn { s with phase := .busy w left }

/-- One step of the machine. -/
def step (s : State) : Host.Outcome State Fault Refusal :=
  match s.resets with
  | [] => stepNoReset s
  | 0 :: rest => .next ({ s with resets := rest } : State).resetEvent
  | (n + 1) :: rest => stepNoReset { s with resets := n :: rest }

/-- The state in which the very next step runs the given command word: the acceptance of a CMD write of
that word (R140), with nothing of its latency left and no reset asserted in the next step (log 6). -/
def State.withFetchWord (s : State) (nbits w : Nat) : State :=
  { s.start (tableWord nbits w) 0 with resets := s.resets.dropWhile (· == 0) }

end Sys2Proof.Machine
end

