-- ==== Sys2Proof/Machine/HostProgram.lean ====
section
/-! DEFINITION. The syntax of host programs: the operations of R93 and the expansions of R94, as lists of
host operations. -/

namespace Sys2Proof.Machine

/-- `WR <loc>, <value>` (R93). -/
def wr (p : Params) (l : Loc) (v : Word) : HostOp := .write (l.addr p) 4 v

/-- `RD <loc>` (R93). -/
def rd (p : Params) (l : Loc) : HostOp := .read (l.addr p) 4

/-- `CMD <MNEMONIC>` (R94). -/
def cmdOp (p : Params) (i : Instr) : HostOp := wr p (.reg .cmd) (encode i)

/-- `b[4k] | b[4k+1]<<8 | b[4k+2]<<16 | b[4k+3]<<24`, a missing byte counting as 0 (R94). -/
def laneWord (bytes : List Byte) (k : Nat) : Word :=
  (bytes.getD (4 * k + 3) 0 ++ bytes.getD (4 * k + 2) 0 ++ bytes.getD (4 * k + 1) 0
    ++ bytes.getD (4 * k) 0 : BitVec 32)

/-- `LOADB <buf>, <byte list>` (R94). -/
def loadBytes (p : Params) (b : Buffer) (bytes : List Byte) : List HostOp :=
  (List.range ((bytes.length + 3) / 4)).map fun k => wr p (.buf b k) (laneWord bytes k)

/-- `LOADS <buf>, "<text>"`: LOADB of the ASCII codes (R94). -/
def loadText (p : Params) (b : Buffer) (text : String) : List HostOp :=
  loadBytes p b (text.toList.map fun c => BitVec.ofNat 8 c.toNat)

/-- `WRP SLIST[i], <sym>, <pattern64>` (R94). -/
def writeEntry (p : Params) (i : Fin 128) (x : Sym) (prob : Pattern) : List HostOp :=
  [wr p (.slistSym i) (x.setWidth 32), wr p (.slistLo i) (prob.extractLsb' 0 32),
    wr p (.slistHi i) (prob.extractLsb' 32 32)]

/-- `CHECK`: a group of host reads (R94). -/
def check (p : Params) (ls : List Loc) : List HostOp := ls.map (rd p)

/-- The encode-side boot sequence of R162, steps (3) to (5), for a text; step (6) reads the results. -/
def encodeProgram (p : Params) (text : String) : List HostOp :=
  loadText p .inp text ++
    [wr p (.reg .inLen) (BitVec.ofNat 32 text.length), cmdOp p .encodeAll, .wait]

end Sys2Proof.Machine
end

