-- ==== Sys2Proof/WellFormed.lean ====
section
/-! DEFINITION. Well-formedness checks: of a command as syntax, and of a raw command word (R86, R88, R90). -/

namespace Sys2Proof

/-- A command is well formed when the encoder's word for it has RSVD = 0 and a defined opcode.
The commands have no operand fields, so no `Instr` can be ill formed (R91). -/
def Instr.wellFormed (i : Instr) : Bool :=
  rsvdField (Sys2Proof.encode i) == 0 && (decodeOpcode (opcodeField (Sys2Proof.encode i))).isSome

/-- The opcode values of R88, and no others. -/
def definedOpcodes : List Byte :=
  [0x00, 0x01, 0x10, 0x11, 0x12, 0x13, 0x20, 0x21, 0x22, 0x23, 0x30, 0x31]

/-- Check 1 of a raw command word: bits 31:8 are zero (R86). -/
def reservedClear (w : Word) : Bool := rsvdField w == 0

/-- Check 2 of a raw command word: its OPCODE is one of R88's (R90). -/
def opcodeDefined (w : Word) : Bool := definedOpcodes.contains (opcodeField w)

/-- A raw command word that names a command: both checks. -/
def wellFormedWord (w : Word) : Bool := reservedClear w && opcodeDefined w

end Sys2Proof
end

