-- ==== Sys2Proof/Safety.lean ====
section
/-! DEFINITION. The terms in which claims are stated: the invariants of R62, the shape of a tree, root
paths, the order of dequeues, and what counts as a safe run. Nothing here is used by the step. -/

namespace Sys2Proof.Machine

/-! ### Invariants -/

/-- R62(a): TOTAL is the sum of the counts. -/
def State.countsAgree (s : State) : Prop :=
  s.total.toNat = (s.cnt.toList.map BitVec.toNat).sum

/-- The shape that R109 gives the arena of a list of `len` entries: leaves below `len`, internal nodes
from `len` to `2 * len - 2`, children before their parents, every node but the root the child of exactly
one internal node, and the leaves' symbols distinct (R104). -/
structure TreeShape (node : Vector NodeEntry 255) (len : Nat) : Prop where
  two_le : 2 ≤ len
  le_max : len ≤ 128
  leaves : ∀ n, n < len →
    (nodeAt node n).leaf = true ∧ (nodeAt node n).left = 0 ∧ (nodeAt node n).right = 0
  distinct : ∀ i j, i < len → j < len → (nodeAt node i).sym = (nodeAt node j).sym → i = j
  internal : ∀ n, len ≤ n → n < 2 * len - 1 →
    (nodeAt node n).leaf = false ∧ (nodeAt node n).sym = 0 ∧
    (nodeAt node n).left.toNat < n ∧ (nodeAt node n).right.toNat < n ∧
    (nodeAt node n).left ≠ (nodeAt node n).right
  oneParent : ∀ k, k < 2 * len - 2 → ∃! n, len ≤ n ∧ n < 2 * len - 1 ∧
    ((nodeAt node n).left.toNat = k ∨ (nodeAt node n).right.toNat = k)

/-- R62(b): a valid tree has 2L-1 nodes for some L in 2..128, its root last, and is a full binary
tree. -/
def State.treeAgrees (s : State) : Prop :=
  s.status.treeValid = true → ∃ len, s.nodeCnt.toNat = 2 * len - 1 ∧
    s.root.toNat = s.nodeCnt.toNat - 1 ∧ TreeShape s.node len

/-- R62(c): a valid code table is the table of the current, valid tree. -/
def State.codesAgree (s : State) : Prop :=
  s.status.codesValid = true → s.status.treeValid = true ∧ s.code = codeTable s.node s.root

/-- The three invariants of R62. The rule states them for BUSY = 0; here they hold at every step,
since a command commits only when it completes. -/
structure State.R62Holds (s : State) : Prop where
  counts : s.countsAgree
  tree   : s.treeAgrees
  codes  : s.codesAgree

/-- An offset that belongs to an element of a buffer (R57 to R60). -/
def isBufferOffset (p : Params) (a : Nat) : Prop :=
  ∃ b : Buffer, b.base ≤ a ∧ a < b.base + b.capacity p

/-- Memory is in its canonical form and lists nothing but elements of buffers. -/
structure State.MemoryOk (s : State) : Prop where
  wf     : s.mem.wf
  inside : ∀ c ∈ s.mem, isBufferOffset s.params c.1

/-- The completion fields of STATUS fit the phase: while a command runs they are as its start left them
(R140), and ERR = 1 goes with a code (R34, R36); an illegal word has no latency left (R89). -/
structure State.CompletionFieldsOk (s : State) : Prop where
  busy   : s.busy = true →
    s.status.done = false ∧ s.status.err = false ∧ s.status.errCode = .none
  err    : s.status.err = true → s.status.errCode ≠ .none
  atOnce : ∀ w left e, s.phase = .busy w left → decode w = .error e → left = 0

/-! ### Steps and host reads -/

/-- No reset is asserted in this step, and `later` is what is left of the resets to come (log 7). -/
def State.NoResetNow (s : State) (later : List Nat) : Prop :=
  (s.resets = [] ∧ later = []) ∨ ∃ n rest, s.resets = (n + 1) :: rest ∧ later = n :: rest

/-- A host read at a byte offset from BASE answers a word and changes nothing. -/
def State.Reads (s : State) (offset : Nat) (v : Word) : Prop :=
  s.hostRead (busBase s.params + BitVec.ofNat 32 offset) = (v, s)

/-- What the registers that are readable in either phase read as (R27 to R31, R81). -/
structure State.StatusRegistersRead (s : State) : Prop where
  id      : s.Reads 0x000 0x48554646
  version : s.Reads 0x004 0x00000001
  ctrl    : s.Reads 0x008 (BitVec.ofNat 32 (s.ctrl.ieDone.toNat + 2 * s.ctrl.ieErr.toNat))
  cmd     : s.Reads 0x00C 0x00000000
  status  : s.Reads 0x010 s.statusWord

/-- What the length and result registers read as (R43 to R51). -/
structure State.LengthRegistersRead (s : State) : Prop where
  inLen    : s.Reads 0x014 s.inLen
  pkLen    : s.Reads 0x018 s.pkLen
  bitLen   : s.Reads 0x01C s.bitLen
  decLen   : s.Reads 0x020 s.decLen
  total    : s.Reads 0x024 s.total
  slistLen : s.Reads 0x028 s.slistLen
  nodeCnt  : s.Reads 0x02C s.nodeCnt
  root     : s.Reads 0x030 (BitVec.ofNat 32 s.root.toNat)
  bitCnt   : s.Reads 0x034 s.bitCnt

/-- What the words of the tables read as (R53, R68, R69, R70). -/
structure State.TablesRead (s : State) : Prop where
  cnt       : ∀ x : Fin 128, s.Reads (0x200 + 4 * x) s.cnt[x]
  slistSym  : ∀ i : Fin 128, s.Reads (0x800 + 16 * i) (BitVec.ofNat 32 s.slist[i].sym.toNat)
  slistLo   : ∀ i : Fin 128, s.Reads (0x804 + 16 * i) (s.slist[i].prob.extractLsb' 0 32)
  slistHi   : ∀ i : Fin 128, s.Reads (0x808 + 16 * i) (s.slist[i].prob.extractLsb' 32 32)
  nodeLeaf  : ∀ n : Fin 255, s.Reads (0x1000 + 16 * n)
    (BitVec.ofNat 32 (2 ^ 31 * s.node[n].leaf.toNat + s.node[n].sym.toNat))
  nodeChild : ∀ n : Fin 255, s.Reads (0x1004 + 16 * n)
    (BitVec.ofNat 32 (s.node[n].left.toNat + 2 ^ 8 * s.node[n].right.toNat))
  nodeLo    : ∀ n : Fin 255, s.Reads (0x1008 + 16 * n) (s.node[n].prob.extractLsb' 0 32)
  nodeHi    : ∀ n : Fin 255, s.Reads (0x100C + 16 * n) (s.node[n].prob.extractLsb' 32 32)
  codeLen   : ∀ x : Fin 128, s.Reads (0x2000 + 32 * x) (BitVec.ofNat 32 s.code[x].len.toNat)
  codeBits  : ∀ (x : Fin 128) (k : Fin 4),
    s.Reads (0x2004 + 32 * x + 4 * k) (s.code[x].bits.extractLsb' (32 * k) 32)

/-! ### Safe runs -/

/-- A host operation that the core gives a meaning in every state: a 32-bit access, WAIT, or no access
(R73). -/
def HostOp.safe : HostOp → Bool
  | .read _ size => size == 4
  | .write _ size _ => size == 4
  | .wait | .pass => true
  | .waitIrq => false

/-- A host operation of the right access width. -/
def HostOp.wordWide : HostOp → Bool
  | .read _ size => size == 4
  | .write _ size _ => size == 4
  | .wait | .pass | .waitIrq => true

/-- A safe run of `k` steps: neither a fault nor a refusal ends it. -/
def SafeRun (k : Nat) (s : State) : Prop := ∃ t, Sys2Proof.core.run k s = .next t

/-! ### Memory, tables and paths -/

/-- Two states have the same RAM: every byte of every buffer reads the same. -/
def SameRam (s t : State) : Prop := ∀ a, t.ram a = s.ram a

/-- `t` differs from `s` in RAM only in the first `n` elements of a buffer. -/
def SameRamBut (b : Buffer) (n : Nat) (s t : State) : Prop :=
  ∀ a, ¬ (b.base ≤ a ∧ a < b.base + n) → t.ram a = s.ram a

/-- The symbol of the leaf that a bit string leads to from a node, if it leads to a leaf and passes only
internal nodes on the way (R114). -/
def leafAtPath (node : Vector NodeEntry 255) : BitVec 8 → List Bool → Option Sym
  | n, [] => if (nodeAt node n.toNat).leaf then some (nodeAt node n.toNat).sym else none
  | n, b :: bs =>
    if (nodeAt node n.toNat).leaf then none else leafAtPath node (childOf node n b) bs

/-- The j-th node that the merge of a list of `len` entries dequeues, as the arena records it: the left
child of the (j/2)-th internal node for an even j, and its right child for an odd one (R107). -/
def dequeued (node : Vector NodeEntry 255) (len j : Nat) : Nat :=
  if j % 2 = 0 then (nodeAt node (len + j / 2)).left.toNat
  else (nodeAt node (len + j / 2)).right.toNat

/-- How many of the first `j` dequeues took the source head, that is, a leaf. -/
def sourceTaken (node : Vector NodeEntry 255) (len j : Nat) : Nat :=
  ((List.range j).filter fun i => dequeued node len i < len).length

/-- The choice that R106 prescribes for the j-th dequeue: with `sh` leaves and `j - sh` internal nodes
taken and j/2 internal nodes made, the source head where the target queue is empty, the target head
where the source is empty, and otherwise the source head exactly when it is smaller or equal. -/
def prescribedHead (node : Vector NodeEntry 255) (len j : Nat) : Nat :=
  let sh := sourceTaken node len j
  let th := len + (j - sh)
  if th = len + j / 2 then sh
  else if sh = len then th
  else if f64Le (nodeAt node sh).prob (nodeAt node th).prob then sh
  else th

/-- The elements of SLIST that BUILD_TREE reads pass R104. -/
structure State.ListAccepted (s : State) : Prop where
  two_le   : 2 ≤ s.slistLen.toNat
  le_max   : s.slistLen.toNat ≤ 128
  probs    : ∀ i : Fin 128, i.1 < s.slistLen.toNat →
    f64Sign s.slist[i].prob = false ∧ f64IsNaN s.slist[i].prob = false
  distinct : ∀ i j : Fin 128, i.1 < s.slistLen.toNat → j.1 < s.slistLen.toNat →
    s.slist[i].sym = s.slist[j].sym → i = j

/-- Every byte of IN[0..IN_LEN-1] is a symbol (R95). -/
def State.InputLegal (s : State) : Prop :=
  ∀ i, i < s.inLen.toNat → (s.elem .inp i).getLsbD 7 = false

/-- The symbols of IN[0..IN_LEN-1], in order. -/
def State.inputSyms (s : State) : List Sym := (s.elems .inp s.inLen.toNat).map symOf

/-- Bit `k` of the packed stream: bit 7 - (k mod 8) of PK[k div 8] (R71). -/
def State.streamBit (s : State) (k : Nat) : Bool := (s.elem .pk (k / 8)).getLsbD (7 - k % 8)

/-- Payload extraction said by stream bits (R126): `p` bits are stripped. With the first 1 among the first
min(8, B) bits at `m`, p = m + 1; with none there, p = min(8, B) and the fallback flag is set. -/
def State.Strips (s : State) (p : Nat) (fallback : Bool) : Prop :=
  (∃ m, m < 8 ∧ m < 8 * s.pkLen.toNat ∧ s.streamBit m = true ∧
    (∀ k, k < m → s.streamBit k = false) ∧ p = m + 1 ∧ fallback = false) ∨
  ((∀ k, k < 8 → k < 8 * s.pkLen.toNat → s.streamBit k = false) ∧
    p = min 8 (8 * s.pkLen.toNat) ∧ fallback = true)

/-- The stream bits from `p` to the end of PK[0..PK_LEN-1]. -/
def State.streamFrom (s : State) (p : Nat) : List Bool :=
  (List.range (8 * s.pkLen.toNat - p)).map fun i => s.streamBit (p + i)

/-- The header of R119 and a payload: k-1 zeros, the marker 1, the payload, k = 8 - len mod 8. -/
def headerAndPayload (b : List Bool) : List Bool :=
  List.replicate (8 - b.length % 8 - 1) false ++ true :: b

/-- PK, PK_LEN and BITCNT hold a packed payload (R119, R123, R124). -/
structure State.Holds (t : State) (b : List Bool) : Prop where
  pkLen  : t.pkLen.toNat = b.length / 8 + 1
  bitCnt : t.bitCnt.toNat = b.length
  bits   : ∀ k, k < 8 * (b.length / 8 + 1) → (headerAndPayload b)[k]? = some (t.streamBit k)

/-- Bit-serial packing with an 8-bit accumulator and a fill count (R121): one step shifts a bit in and
writes the accumulator when eight bits have gathered. -/
def packSerial : Byte → Nat → List Bool → List Byte
  | _, _, [] => []
  | acc, f, b :: bs =>
    let acc' := (acc <<< 1) ||| (BitVec.ofBool b).setWidth 8
    if f + 1 = 8 then acc' :: packSerial 0 0 bs else packSerial acc' (f + 1) bs

end Sys2Proof.Machine
end

