-- ==== Sys2Proof/Certificates/Slice0/Obligations.lean ====
section
/-! DEFINITION. The statements for the provers, from the numbered rules of spec/.
Every statement about a command names what it leaves unchanged: `t = { s with … }` says that every field
of State but the named ones is unchanged; where a command stores, `SameRamBut` says which bytes. -/

open Sys2Proof Sys2Proof.Machine

/-! ### Encoding and the step -/

/-- R88: the twelve command words, written out from the table, decode to their commands. -/
def Obligations.DecodeReadsTheTableWords : Prop :=
  Sys2Proof.decode 0x00000000 = .ok .nop ∧ Sys2Proof.decode 0x00000001 = .ok .clear ∧
  Sys2Proof.decode 0x00000010 = .ok .count ∧ Sys2Proof.decode 0x00000011 = .ok .sort ∧
  Sys2Proof.decode 0x00000012 = .ok .buildTree ∧ Sys2Proof.decode 0x00000013 = .ok .buildCodes ∧
  Sys2Proof.decode 0x00000020 = .ok .encode ∧ Sys2Proof.decode 0x00000021 = .ok .pack ∧
  Sys2Proof.decode 0x00000022 = .ok .unpack ∧ Sys2Proof.decode 0x00000023 = .ok .decode ∧
  Sys2Proof.decode 0x00000030 = .ok .encodeAll ∧ Sys2Proof.decode 0x00000031 = .ok .build

/-- R88, R89: decoding and encoding agree in both directions: a word selects a command exactly when it is
the command's whole 32-bit pattern. -/
def Obligations.DecodeInvertsEncode : Prop :=
  ∀ (w : Word) (i : Instr), Sys2Proof.decode w = .ok i ↔ w = Sys2Proof.encode i

/-- R90: the illegal words are those with RSVD ≠ 0 and those whose OPCODE is in 0x02–0x0F, 0x14–0x1F,
0x24–0x2F or 0x32–0xFF, and no others; each of them completes as a failure with ILLEGAL_CMD (R89), and
commits nothing else (R143). That the phase counts the latency left, and that the resets to come are a list
whose count moves on in the step, are the model's choices (logs 3 and 7). -/
def Obligations.ReservedWordsFail : Prop :=
  let reserved (w : Word) : Prop := 0x100 ≤ w.toNat ∨ (0x02 ≤ w.toNat ∧ w.toNat ≤ 0x0F) ∨
    (0x14 ≤ w.toNat ∧ w.toNat ≤ 0x1F) ∨ (0x24 ≤ w.toNat ∧ w.toNat ≤ 0x2F) ∨
    (0x32 ≤ w.toNat ∧ w.toNat ≤ 0xFF)
  (∀ w : Word, (∃ e, Sys2Proof.decode w = .error e) ↔ reserved w) ∧
  ∀ (s : State) (w : Word) (later : List Nat), s.phase = .busy w 0 → s.NoResetNow later →
    reserved w →
    step s = .next { s with
      phase := .idle
      resets := later
      status := { s.status with done := true, err := true, errCode := .illegalCmd } }

/-- A step runs the decoded command, or the host's next operation (R79, R94, R141, R164; the host's list and
the resets to come are the model's, logs 5 and 7). In a step without a reset: with nothing of the latency
left, the step is `exec` of the command that the held word decodes to; in an idle core, and in a busy one
with latency left, of which one turn passes, the host's next access is made on the bus, WAIT goes on only in
an idle core, and the wait for the interrupt only at irq = 1; one that nothing can end stops the model
(U15, log 14). -/
def Obligations.StepRunsTheDecodedCommand : Prop :=
  ∀ (s : State) (later : List Nat), s.NoResetNow later →
    (∀ (w : Word) (i : Instr), s.phase = .busy w 0 → Sys2Proof.decode w = .ok i →
      step s = exec i { s with resets := later }) ∧
    ∀ turn : State,
      (s.phase = .idle ∧ turn = { s with resets := later }) ∨
        (∃ w left, s.phase = .busy w (left + 1) ∧
          turn = { s with resets := later, phase := .busy w left }) →
      (s.host = [] → step s = .next turn) ∧
      (∀ rest, s.host = .pass :: rest → step s = .next { turn with host := rest }) ∧
      (∀ addr rest, s.host = .read addr 4 :: rest →
        step s = .next { (turn.hostRead addr).2 with
          host := rest, reads := (turn.hostRead addr).1 :: s.reads }) ∧
      (∀ addr v rest, s.host = .write addr 4 v :: rest →
        step s = .next { turn.hostWrite addr v with host := rest }) ∧
      (∀ rest, s.host = .wait :: rest →
        (s.busy = false → step s = .next { turn with host := rest }) ∧
        (s.busy = true → step s = .next turn)) ∧
      (∀ rest, s.host = .waitIrq :: rest →
        (s.irq = true → step s = .next { turn with host := rest }) ∧
        (s.irq = false → s.busy = true ∨ later ≠ [] → step s = .next turn) ∧
        (s.irq = false → s.busy = false → later = [] → step s = .fault .hostStuck))

/-- R140, R89: a host write of a word to CMD while BUSY = 0 sets BUSY, clears DONE, ERR and ERR_CODE, leaves
ACCESS_ERR and the information flags, and begins the command. An illegal word starts like any other, with
no latency, so that it completes at once. That a legal one takes the next of a list of latencies, and that
the host's operations and the resets to come are lists, are the model's choices (logs 3, 5 and 7). -/
def Obligations.CmdWriteStartsTheCommand : Prop :=
  ∀ (s : State) (w : Word) (rest : List HostOp) (later : List Nat), s.phase = .idle →
    s.NoResetNow later → s.host = .write (busBase s.params + 0x00C) 4 w :: rest →
    (∀ i, Sys2Proof.decode w = .ok i → ∃ latency, step s = .next { s with
      phase := .busy w latency
      status := { s.status with done := false, err := false, errCode := .none }
      latencies := s.latencies.tail
      host := rest
      resets := later }) ∧
    ∀ e, Sys2Proof.decode w = .error e → step s = .next { s with
      phase := .busy w 0
      status := { s.status with done := false, err := false, errCode := .none }
      host := rest
      resets := later }

/-- R169: every started command completes, and sets DONE, after as many host turns as its latency has
left and one step more, whatever accesses of the right width the host makes meanwhile. The latency left, the
host's operations and the resets to come are the model's fields (logs 3, 5 and 7). -/
def Obligations.EveryCommandCompletes : Prop :=
  ∀ (s : State) (w : Word) (left : Nat), s.phase = .busy w left → s.resets = [] →
    s.host.all HostOp.wordWide = true →
    ∃ t, Sys2Proof.core.run (left + 1) s = .next t ∧ t.phase = .idle ∧ t.status.done = true

/-- R80, R163: a step during BUSY that does not complete the command changes none of its operands: only
the latency left, the W1C bits, and the host's own progress. The latency left, the resets to come, the
host's operations and reads, and the count of draws are the model's fields (logs 2, 3, 5 and 7). -/
def Obligations.BusyTurnsKeepTheOperands : Prop :=
  ∀ (s t : State) (w : Word) (left : Nat) (later : List Nat), s.phase = .busy w (left + 1) →
    s.NoResetNow later → step s = .next t →
    t = { s with
      phase := .busy w left
      resets := later
      status := { s.status with
        done := t.status.done, err := t.status.err, accessErr := t.status.accessErr }
      host := t.host, reads := t.reads, draws := t.draws }

/-- R151, R169: no step stops the machine: every step answers a next state, as long as the host's next
operation is a 32-bit access, WAIT or no access. -/
def Obligations.EveryStepGoesOn : Prop :=
  ∀ s : State, (∀ op rest, s.host = op :: rest → op.safe = true) → ∃ t, step s = .next t

/-! ### Reset -/

/-- R158: every element that has a reset value has it after reset. The table in RAM and the
environment's fields are not in this statement (R159; the model's own). -/
def Obligations.ResetValues : Prop :=
  ∀ (p : Params) (e : Nat), let s := State.resetWith p e
    s.phase = .idle ∧ s.statusWord = 0 ∧ s.readReg .ctrl = 0 ∧ s.readReg .cmd = 0 ∧
    s.readReg .id = 0x48554646 ∧ s.readReg .version = 0x00000001 ∧
    s.inLen = 0 ∧ s.pkLen = 0 ∧ s.bitLen = 0 ∧ s.decLen = 0 ∧ s.total = 0 ∧ s.slistLen = 0 ∧
    s.nodeCnt = 0 ∧ s.root = 0 ∧ s.bitCnt = 0 ∧ (∀ x : Fin 128, s.cnt[x] = 0) ∧ s.irq = false

/-- R157, R160: an asserted reset takes precedence over everything, a completion included, abandons the
running command, and puts every element at its reset value. That a due reset is an entry 0 of a list, and
that the parameters, the host's operations and the later resets stay, are the model's choices (logs 4, 5
and 7). -/
def Obligations.ResetAbandonsTheCommand : Prop :=
  ∀ (s : State) (rest : List Nat), s.resets = 0 :: rest →
    ∃ t, step s = .next t ∧ t.phase = .idle ∧ t.statusWord = 0 ∧ t.readReg .ctrl = 0 ∧
      t.inLen = 0 ∧ t.pkLen = 0 ∧ t.bitLen = 0 ∧ t.decLen = 0 ∧ t.total = 0 ∧ t.slistLen = 0 ∧
      t.nodeCnt = 0 ∧ t.root = 0 ∧ t.bitCnt = 0 ∧ (∀ x : Fin 128, t.cnt[x] = 0) ∧
      t.irq = false ∧ t.params = s.params ∧ t.host = s.host ∧ t.resets = rest

/-! ### Status, interrupt and the host bus -/

/-- R31, R52, R137: the fields of the STATUS word, and the numbers of the error codes. -/
def Obligations.StatusWordFields : Prop :=
  (ErrCode.number .none = 0 ∧ ErrCode.number .illegalCmd = 1 ∧ ErrCode.number .badLength = 2 ∧
    ErrCode.number .invalidSymbol = 3 ∧ ErrCode.number .invalidBitChar = 4 ∧
    ErrCode.number .listTooSmall = 5 ∧ ErrCode.number .badList = 6 ∧ ErrCode.number .noTree = 7 ∧
    ErrCode.number .noTable = 8 ∧ ErrCode.number .noCode = 9 ∧ ErrCode.number .outOverflow = 10) ∧
  ∀ s : State,
    s.statusWord.getLsbD 0 = s.busy ∧ s.statusWord.getLsbD 1 = s.status.done ∧
    s.statusWord.getLsbD 2 = s.status.err ∧ s.statusWord.getLsbD 3 = s.status.accessErr ∧
    s.statusWord.extractLsb' 4 4 = s.status.errCode.number ∧
    s.statusWord.getLsbD 8 = s.status.empty ∧ s.statusWord.getLsbD 9 = s.status.degenerate ∧
    s.statusWord.getLsbD 10 = s.status.padFallback ∧
    s.statusWord.getLsbD 11 = s.status.trailing ∧
    s.statusWord.getLsbD 12 = s.status.treeValid ∧
    s.statusWord.getLsbD 13 = s.status.codesValid ∧ s.statusWord.extractLsb' 14 18 = 0

/-- R146: the interrupt line is this function of the STATUS and CTRL words a host reads; the host clears it
by writing 1 to the asserting STATUS bits, by clearing the enables, or by starting a command, which clears
DONE and ERR (ACCESS_ERR stays); it is 0 after reset. -/
def Obligations.InterruptLine : Prop :=
  (∀ s : State,
    s.irq = ((s.statusWord.getLsbD 1 && (s.readReg .ctrl).getLsbD 0) ||
      ((s.statusWord.getLsbD 2 || s.statusWord.getLsbD 3) && (s.readReg .ctrl).getLsbD 1)) ∧
    (∀ v : Word, v.getLsbD 1 = true → v.getLsbD 2 = true → v.getLsbD 3 = true →
      (s.hostWrite (busBase s.params + 0x010) v).irq = false) ∧
    (s.phase = .idle → (s.hostWrite (busBase s.params + 0x008) 0).irq = false) ∧
    (s.phase = .idle → s.status.accessErr = false →
      ∀ w : Word, (s.hostWrite (busBase s.params + 0x00C) w).irq = false)) ∧
  ∀ (p : Params) (e : Nat), (State.resetWith p e).irq = false

/-- R31: a host write to STATUS clears the W1C bits written as 1, in either phase, and changes nothing
else. -/
def Obligations.StatusWriteClearsBits : Prop :=
  ∀ (s : State) (v : Word), s.hostWrite (busBase s.params + 0x010) v = { s with
    status := { s.status with
      done := s.status.done && !v.getLsbD 1
      err := s.status.err && !v.getLsbD 2
      accessErr := s.status.accessErr && !v.getLsbD 3 } }

/-- R65 to R70: the address map. An address is a mapped word's exactly when it is BASE plus the word's
offset; a window's words at or beyond ceil(MAX/4) are unmapped (R66). -/
def Obligations.AddressMapIsExact : Prop :=
  ∀ (p : Params) (addr : Word) (l : Loc), locAt p addr = some l ↔
    (addr = l.addr p ∧ ∀ b w, l = .buf b w → w < (b.capacity p + 3) / 4)

/-- R74, R75: a read of a misaligned or unmapped address answers 0 and sets ACCESS_ERR; a write to one
sets ACCESS_ERR; neither changes anything else. That an address below BASE counts as one, by its offset
modulo 2^32, is the model's reading (log 10). -/
def Obligations.UnmappedAccessesAreRejected : Prop :=
  ∀ (s : State) (addr v : Word),
    (addr.toNat % 4 ≠ 0 ∨ 0x05000000 ≤ (addr - busBase s.params).toNat ∨
      locAt s.params addr = none) →
    s.hostRead addr = (0, { s with status := { s.status with accessErr := true } }) ∧
    s.hostWrite addr v = { s with status := { s.status with accessErr := true } }

/-- R76: a host write to a read-only location is ignored and sets ACCESS_ERR. -/
def Obligations.ReadOnlyLocationsRejectWrites : Prop :=
  ∀ (s : State) (l : Loc) (addr v : Word), locAt s.params addr = some l →
    (l ∈ [.reg .id, .reg .version, .reg .decLen, .reg .total, .reg .nodeCnt, .reg .root,
        .reg .bitCnt] ∨ (∃ x, l = .cnt x) ∨ (∃ n w, l = .node n w) ∨ (∃ x w, l = .code x w) ∨
      (∃ w, l = .buf .dec w)) →
    s.hostWrite addr v = { s with status := { s.status with accessErr := true } }

/-- R163: while BUSY = 1, a host write to STATUS is honoured, and every other host write is dropped and
sets ACCESS_ERR. -/
def Obligations.WritesDuringBusyAreDropped : Prop :=
  ∀ (s : State) (addr v : Word), s.busy = true →
    (addr = busBase s.params + 0x010 → s.hostWrite addr v = { s with
      status := { s.status with
        done := s.status.done && !v.getLsbD 1
        err := s.status.err && !v.getLsbD 2
        accessErr := s.status.accessErr && !v.getLsbD 3 } }) ∧
    (addr ≠ busBase s.params + 0x010 →
      s.hostWrite addr v = { s with status := { s.status with accessErr := true } })

/-- R77, R81: a host read of a mapped word changes nothing, ACCESS_ERR included. ID, VERSION, CTRL, CMD and
STATUS read as their values in either phase; with BUSY = 0 every register and every word of a table does
(R27 to R30, R43 to R51, R53, R68, R69, R70), and so does every other mapped word (for the buffers see
BufferWordsAreLittleEndian). During BUSY a read of any other mapped word is a fresh free value, counted by
the model's own `draws` (log 2). For unmapped addresses see UnmappedAccessesAreRejected. -/
def Obligations.ReadsHaveNoOtherEffect : Prop :=
  ∀ s : State, s.StatusRegistersRead ∧
    (s.busy = false → s.LengthRegistersRead ∧ s.TablesRead) ∧
    ∀ (addr : Word) (l : Loc), locAt s.params addr = some l →
      (s.hostRead addr).2 = { s with draws := (s.hostRead addr).2.draws } ∧
      (s.busy = false ∨ l ∈ [.reg .id, .reg .version, .reg .ctrl, .reg .cmd, .reg .status] →
        s.hostRead addr = (s.readLoc l, s)) ∧
      (s.busy = true → l ∉ [.reg .id, .reg .version, .reg .ctrl, .reg .cmd, .reg .status] →
        s.hostRead addr = (Config.freeRead s.draws, { s with draws := s.draws + 1 }))

/-- R29, R43, R44, R45, R48: with BUSY = 0, a host write to CTRL or to a RW length register is what the
next read of it answers (the reserved bits of CTRL read 0), and it changes nothing else. -/
def Obligations.RegisterWritesReadBack : Prop :=
  ∀ (s : State) (v : Word), s.phase = .idle →
    s.hostWrite (busBase s.params + 0x008) v =
      { s with ctrl := { ieDone := v.getLsbD 0, ieErr := v.getLsbD 1 } } ∧
    (s.hostWrite (busBase s.params + 0x008) v).hostRead (busBase s.params + 0x008) =
      (v &&& 3, s.hostWrite (busBase s.params + 0x008) v) ∧
    (s.hostWrite (busBase s.params + 0x014) v = { s with inLen := v } ∧
      ({ s with inLen := v } : State).hostRead (busBase s.params + 0x014) =
        (v, { s with inLen := v })) ∧
    (s.hostWrite (busBase s.params + 0x018) v = { s with pkLen := v } ∧
      ({ s with pkLen := v } : State).hostRead (busBase s.params + 0x018) =
        (v, { s with pkLen := v })) ∧
    (s.hostWrite (busBase s.params + 0x01C) v = { s with bitLen := v } ∧
      ({ s with bitLen := v } : State).hostRead (busBase s.params + 0x01C) =
        (v, { s with bitLen := v })) ∧
    (s.hostWrite (busBase s.params + 0x028) v = { s with slistLen := v } ∧
      ({ s with slistLen := v } : State).hostRead (busBase s.params + 0x028) =
        (v, { s with slistLen := v }))

/-- R68: with BUSY = 0, each word of an SLIST element is written alone, the two halves of the
probability separately; bits 31:7 of the symbol word are ignored; other elements do not change. -/
def Obligations.SlistWordsAreWrittenAlone : Prop :=
  ∀ (s : State) (i : Fin 128) (v : Word), s.phase = .idle →
    (∃ t, s.hostWrite ((Loc.slistSym i).addr s.params) v = t ∧ t = { s with slist := t.slist } ∧
      t.slist[i].sym.toNat = v.toNat % 128 ∧ t.slist[i].prob = s.slist[i].prob ∧
      ∀ j : Fin 128, j ≠ i → t.slist[j] = s.slist[j]) ∧
    (∃ t, s.hostWrite ((Loc.slistLo i).addr s.params) v = t ∧ t = { s with slist := t.slist } ∧
      t.slist[i].sym = s.slist[i].sym ∧ t.slist[i].prob.extractLsb' 0 32 = v ∧
      t.slist[i].prob.extractLsb' 32 32 = s.slist[i].prob.extractLsb' 32 32 ∧
      ∀ j : Fin 128, j ≠ i → t.slist[j] = s.slist[j]) ∧
    (∃ t, s.hostWrite ((Loc.slistHi i).addr s.params) v = t ∧ t = { s with slist := t.slist } ∧
      t.slist[i].sym = s.slist[i].sym ∧ t.slist[i].prob.extractLsb' 32 32 = v ∧
      t.slist[i].prob.extractLsb' 0 32 = s.slist[i].prob.extractLsb' 0 32 ∧
      ∀ j : Fin 128, j ≠ i → t.slist[j] = s.slist[j])

/-- R67: word w of a window reads as elements 4w..4w+3, element 4w+j in bits [8j+7:8j], a lane at or above
the capacity as 0; with BUSY = 0 a host write of a word of IN, PK or BITS stores its four lanes, ignores
those at or above the capacity, and changes no other byte of RAM. -/
def Obligations.BufferWordsAreLittleEndian : Prop :=
  (∀ (s : State) (b : Buffer) (w j : Nat), j < 4 →
    (s.readLoc (.buf b w)).extractLsb' (8 * j) 8 =
      if 4 * w + j < b.capacity s.params then s.elem b (4 * w + j) else 0) ∧
  ∀ (s : State) (b : Buffer) (w : Nat) (v : Word), s.phase = .idle → b ≠ .dec →
    w < (b.capacity s.params + 3) / 4 →
    ∃ t, s.hostWrite ((Loc.buf b w).addr s.params) v = t ∧ t = { s with mem := t.mem } ∧
      (∀ j, j < 4 → 4 * w + j < b.capacity s.params →
        t.elem b (4 * w + j) = v.extractLsb' (8 * j) 8) ∧
      ∀ a, ¬ (b.base + 4 * w ≤ a ∧ a < b.base + 4 * w + 4 ∧ a < b.base + b.capacity s.params) →
        t.ram a = s.ram a

/-! ### Shell commands -/

/-- R133: NOP completes successfully and changes nothing else. -/
def Obligations.NopOnlyCompletes : Prop :=
  ∀ s : State, exec .nop s = .next { s with
    phase := .idle
    status := { s.status with done := true, err := false, errCode := .none } }

/-- R161: CLEAR zeroes the lengths, the counts and the flags and keeps CTRL and every RAM. That ACCESS_ERR
is 0 after it even where an access was rejected while the CLEAR was running is the model's reading
(log 9). -/
def Obligations.ClearDiscardsTheSession : Prop :=
  ∀ s : State, exec .clear s = .next { s with
    phase := .idle
    inLen := 0, pkLen := 0, bitLen := 0, decLen := 0, total := 0, slistLen := 0, nodeCnt := 0
    root := 0, bitCnt := 0
    cnt := Vector.replicate 128 0
    status := { done := true, err := false, accessErr := false, errCode := .none, empty := false,
                degenerate := false, padFallback := false, trailing := false, treeValid := false,
                codesValid := false } }

/-! ### COUNT and SORT -/

/-- R96, R97: COUNT of a legal input: CNT[x] is the number of indices i < IN_LEN with IN[i] = x, TOTAL is
IN_LEN and the sum of the counts, EMPTY is set exactly for an empty input, and nothing else changes. -/
def Obligations.CountCountsTheInput : Prop :=
  ∀ s : State, s.inLen.toNat ≤ s.params.maxIn.size → s.InputLegal →
    ∃ t, exec .count s = .next t ∧
      t = { s with
        cnt := t.cnt
        total := s.inLen
        phase := .idle
        status := { s.status with
          done := true, err := false, errCode := .none, empty := decide (s.inLen.toNat = 0) } } ∧
      (t.cnt.toList.map BitVec.toNat).sum = s.inLen.toNat ∧
      ∀ x : Fin 128, t.cnt[x].toNat =
        ((List.range s.inLen.toNat).filter fun i => (s.elem .inp i).toNat == x.1).length

/-- R96: COUNT checks BAD_LENGTH first, then INVALID_SYMBOL, and commits nothing on a failure (R143). -/
def Obligations.CountFails : Prop :=
  ∀ s : State,
    (s.params.maxIn.size < s.inLen.toNat → exec .count s = .next { s with
      phase := .idle
      status := { s.status with done := true, err := true, errCode := .badLength } }) ∧
    (s.inLen.toNat ≤ s.params.maxIn.size → ¬ s.InputLegal → exec .count s = .next { s with
      phase := .idle
      status := { s.status with done := true, err := true, errCode := .invalidSymbol } })

/-- R102: SORT of an empty count writes no entry, sets EMPTY and clears DEGENERATE. -/
def Obligations.SortOfNothing : Prop :=
  ∀ s : State, s.total = 0 → exec .sort s = .next { s with
    slistLen := 0
    phase := .idle
    status := { s.status with
      done := true, err := false, errCode := .none, empty := true, degenerate := false } }

/-- R99: SORT of a single present symbol applies the degenerate-alphabet rule: the synthetic next symbol
(127 wraps to 0) with probability 0.0 comes first, the real symbol with 1.0 second. -/
def Obligations.SortOfOneSymbol : Prop :=
  ∀ (s : State) (x : Fin 128), s.total ≠ 0 → s.cnt[x] = s.total →
    (∀ y : Fin 128, y ≠ x → s.cnt[y] = 0) →
    ∃ t, exec .sort s = .next t ∧
      t = { s with
        slist := t.slist
        slistLen := 2
        phase := .idle
        status := { s.status with
          done := true, err := false, errCode := .none, empty := false, degenerate := true } } ∧
      t.slist[0].sym.toNat = (x.1 + 1) % 128 ∧ t.slist[0].prob = 0x0000000000000000 ∧
      t.slist[1].sym.toNat = x.1 ∧ t.slist[1].prob = 0x3FF0000000000000 ∧
      ∀ i : Fin 128, 2 ≤ i.1 → t.slist[i] = s.slist[i]

/-- R98, R100, R102: SORT of two or more present symbols writes one entry for each of them, with
probability count/total, in ascending order of probability and then of symbol, and no other entry. -/
def Obligations.SortOrdersTheEntries : Prop :=
  ∀ (s : State) (x y : Fin 128), s.total ≠ 0 → x ≠ y → s.cnt[x] ≠ 0 → s.cnt[y] ≠ 0 →
    ∃ t, exec .sort s = .next t ∧
      t = { s with
        slist := t.slist
        slistLen := t.slistLen
        phase := .idle
        status := { s.status with
          done := true, err := false, errCode := .none, empty := false, degenerate := false } } ∧
      t.slistLen.toNat = (s.cnt.toList.filter fun c => c != 0).length ∧
      (∀ z : Fin 128, s.cnt[z] ≠ 0 ↔
        ∃ i : Fin 128, i.1 < t.slistLen.toNat ∧ t.slist[i].sym.toNat = z.1) ∧
      (∀ i : Fin 128, i.1 < t.slistLen.toNat → t.slist[i].prob =
        f64Div (u2f (countOf s.cnt t.slist[i].sym).toNat) (u2f s.total.toNat)) ∧
      (∀ i j : Fin 128, i < j → j.1 < t.slistLen.toNat →
        t.slist[i].prob.toNat < t.slist[j].prob.toNat ∨
        (t.slist[i].prob = t.slist[j].prob ∧ t.slist[i].sym.toNat < t.slist[j].sym.toNat)) ∧
      ∀ i : Fin 128, t.slistLen.toNat ≤ i.1 → t.slist[i] = s.slist[i]

/-! ### Binary64 -/

/-- R15: `u2f` is exact below 2^53. `f64_add` of two non-negative finite values whose exact sum is below
the midpoint of the greatest finite value and its successor is finite, a value nearest to the exact sum,
with an even significand where two values are equally near; at or above that midpoint, and with an infinite
operand, it is +infinity (R108). Magnitudes are multiples of 2^-1074. -/
def Obligations.AdditionRoundsToNearestEven : Prop :=
  (∀ n, n < 2 ^ 53 → f64Sign (u2f n) = false ∧ f64Exp (u2f n) < 0x7FF ∧
    f64Units (u2f n) = n * 2 ^ 1074) ∧
  (∀ a b q : Pattern, f64Sign a = false → f64Sign b = false → f64Sign q = false →
    f64Exp a < 0x7FF → f64Exp b < 0x7FF → f64Exp q < 0x7FF →
    f64Units a + f64Units b < (2 ^ 54 - 1) * 2 ^ 2044 →
    let exact : Int := f64Units a + f64Units b
    f64Sign (f64Add a b) = false ∧ f64Exp (f64Add a b) < 0x7FF ∧
    |(f64Units (f64Add a b) : Int) - exact| ≤ |(f64Units q : Int) - exact| ∧
    (|(f64Units (f64Add a b) : Int) - exact| = |(f64Units q : Int) - exact| → q ≠ f64Add a b →
      (f64Add a b).getLsbD 0 = false)) ∧
  (∀ a b : Pattern, f64Sign a = false → f64Sign b = false → f64Exp a < 0x7FF → f64Exp b < 0x7FF →
    (2 ^ 54 - 1) * 2 ^ 2044 ≤ f64Units a + f64Units b → f64Add a b = 0x7FF0000000000000) ∧
  ∀ a : Pattern, f64Sign a = false → f64IsNaN a = false →
    f64Add 0x7FF0000000000000 a = 0x7FF0000000000000 ∧
    f64Add a 0x7FF0000000000000 = 0x7FF0000000000000

/-- R15: `f64_div` of two counts is a value nearest to the exact quotient, with an even significand where
two values are equally near; it is positive and finite (R98). -/
def Obligations.DivisionRoundsToNearestEven : Prop :=
  ∀ (c t : Nat) (q : Pattern), 0 < c → 0 < t → c < 2 ^ 53 → t < 2 ^ 53 →
    f64Sign q = false → f64Exp q < 0x7FF →
    let p := f64Div (u2f c) (u2f t)
    f64Sign p = false ∧ f64Exp p < 0x7FF ∧ 0 < f64Units p ∧
    |(f64Units p : Int) * t - c * 2 ^ 1074| ≤ |(f64Units q : Int) * t - c * 2 ^ 1074| ∧
    (|(f64Units p : Int) * t - c * 2 ^ 1074| = |(f64Units q : Int) * t - c * 2 ^ 1074| → q ≠ p →
      p.getLsbD 0 = false)

/-- R16: for patterns with sign bit 0 that are no NaN, the comparison is the unsigned one. -/
def Obligations.ComparisonIsUnsigned : Prop :=
  ∀ a b : Pattern, f64Sign a = false → f64Sign b = false → f64IsNaN a = false →
    f64IsNaN b = false → f64Le a b = decide (a.toNat ≤ b.toNat)

/-- R101: for one total up to 2^24, a smaller count has a strictly smaller probability, so sorting by
count gives the same list. -/
def Obligations.ProbabilityGrowsWithTheCount : Prop :=
  ∀ a b t : Nat, 0 < a → a < b → b ≤ t → t ≤ 2 ^ 24 →
    (f64Div (u2f a) (u2f t)).toNat < (f64Div (u2f b) (u2f t)).toNat

/-! ### BUILD_TREE -/

/-- R104: BUILD_TREE fails with LIST_TOO_SMALL below two entries and with BAD_LIST on every other list
that is not accepted, and then commits nothing (R143); it succeeds on every accepted list, in whatever
order its entries stand. -/
def Obligations.BuildTreeChecksTheList : Prop :=
  ∀ s : State,
    (s.slistLen.toNat < 2 → exec .buildTree s = .next { s with
      phase := .idle
      status := { s.status with done := true, err := true, errCode := .listTooSmall } }) ∧
    (2 ≤ s.slistLen.toNat → ¬ s.ListAccepted → exec .buildTree s = .next { s with
      phase := .idle
      status := { s.status with done := true, err := true, errCode := .badList } }) ∧
    (s.ListAccepted → ∃ t, exec .buildTree s = .next t ∧ t.status.err = false ∧
      t.status.errCode = .none)

/-- R105, R108: BUILD_TREE of an accepted list of L entries: NODE[0..L-1] are the list's leaves, 2L-1
nodes, the root last, TREE_VALID = 1, CODES_VALID = 0; NODE entries from 2L-1 up, and everything else,
are unchanged. -/
def Obligations.BuildTreeMakesTheArena : Prop :=
  ∀ s : State, s.ListAccepted →
    ∃ t, exec .buildTree s = .next t ∧
      t = { s with
        node := t.node
        nodeCnt := t.nodeCnt
        root := t.root
        phase := .idle
        status := { s.status with
          done := true, err := false, errCode := .none, treeValid := true, codesValid := false } } ∧
      t.nodeCnt.toNat = 2 * s.slistLen.toNat - 1 ∧ t.root.toNat = 2 * s.slistLen.toNat - 2 ∧
      (∀ i : Fin 128, i.1 < s.slistLen.toNat → nodeAt t.node i =
        { leaf := true, sym := s.slist[i].sym, prob := s.slist[i].prob, left := 0, right := 0 }) ∧
      ∀ n : Fin 255, 2 * s.slistLen.toNat - 1 ≤ n.1 → t.node[n] = s.node[n]

/-- R106, R107: the merge takes, at every dequeue, the head that R106 prescribes (ties favour the source);
the k-th merge step appends the internal node at L + k, whose left child is the first node it dequeued and
whose right child the second, with the binary64 sum of their probabilities; the merge ends when one node
is left, after L - 1 steps. -/
def Obligations.BuildTreeMergesTwoQueues : Prop :=
  ∀ s : State, s.ListAccepted →
    ∃ t, exec .buildTree s = .next t ∧
      t.nodeCnt.toNat = s.slistLen.toNat + (s.slistLen.toNat - 1) ∧
      (∀ j, j < 2 * (s.slistLen.toNat - 1) →
        dequeued t.node s.slistLen.toNat j = prescribedHead t.node s.slistLen.toNat j) ∧
      ∀ n, s.slistLen.toNat ≤ n → n < 2 * s.slistLen.toNat - 1 →
        (nodeAt t.node n).leaf = false ∧ (nodeAt t.node n).sym = 0 ∧
        (nodeAt t.node n).prob = f64Add (nodeAt t.node (nodeAt t.node n).left.toNat).prob
          (nodeAt t.node (nodeAt t.node n).right.toNat).prob

/-- R109: the result is a full binary tree with its leaves first and its root last. -/
def Obligations.BuildTreeGivesAFullTree : Prop :=
  ∀ s : State, s.ListAccepted →
    ∃ t, exec .buildTree s = .next t ∧ TreeShape t.node s.slistLen.toNat

/-! ### BUILD_CODES -/

/-- R115: BUILD_CODES without a tree fails with NO_TREE and commits nothing (R143). -/
def Obligations.BuildCodesNeedsATree : Prop :=
  ∀ s : State, s.status.treeValid = false → exec .buildCodes s = .next { s with
    phase := .idle
    status := { s.status with done := true, err := true, errCode := .noTree } }

/-- R114, R115: BUILD_CODES of a valid tree: a symbol's code is the path from the root to its leaf, 0 for
a left step and 1 for a right step; a symbol of no leaf gets len = 0 and bits = 0; nothing else
changes. -/
def Obligations.BuildCodesRecordsThePaths : Prop :=
  ∀ s : State, s.treeAgrees → s.status.treeValid = true →
    ∃ t, exec .buildCodes s = .next t ∧
      t = { s with
        code := t.code
        phase := .idle
        status := { s.status with done := true, err := false, errCode := .none, codesValid := true } } ∧
      (∀ (x : Sym) (e : List Bool), leafAtPath s.node s.root e = some x →
        (codeOf t.code x).len.toNat = e.length ∧
        (codeOf t.code x).bits.toNat = bitsValue e ∧ codeBits (codeOf t.code x) = e) ∧
      ∀ x : Sym, (∀ e, leafAtPath s.node s.root e ≠ some x) →
        (codeOf t.code x).len = 0 ∧ (codeOf t.code x).bits = 0

/-- R117: after BUILD_CODES every code is non-empty, no code begins another, the code lengths satisfy the
Kraft equality, and exactly (NODE_CNT + 1) / 2 symbols have a code. -/
def Obligations.CodesArePrefixFreeAndComplete : Prop :=
  ∀ s : State, s.treeAgrees → s.status.treeValid = true →
    ∃ t, exec .buildCodes s = .next t ∧
      (∀ x y : Sym, (codeOf t.code x).len ≠ 0 → (codeOf t.code y).len ≠ 0 → x ≠ y →
        ¬ codeBits (codeOf t.code x) <+: codeBits (codeOf t.code y)) ∧
      (∀ x : Sym, (codeOf t.code x).len ≠ 0 →
        codeBits (codeOf t.code x) ≠ [] ∧ (codeOf t.code x).len.toNat ≤ 127) ∧
      ((allSyms.filter fun x => (codeOf t.code x).len != 0).map fun x =>
        2 ^ (127 - (codeOf t.code x).len.toNat)).sum = 2 ^ 127 ∧
      (allSyms.filter fun x => (codeOf t.code x).len != 0).length = (s.nodeCnt.toNat + 1) / 2

/-! ### The bit packer -/

/-- R119, R120, R125: the packed bytes of a payload of P bits are P div 8 + 1 bytes, whose bits, most
significant first, are the header of k-1 zeros and a one and then the payload. -/
def Obligations.PackedBytesSpellHeaderAndPayload : Prop :=
  ∀ b : List Bool, (packBits b).length = b.length / 8 + 1 ∧
    expandBytes (packBits b) = List.replicate (8 - b.length % 8 - 1) false ++ true :: b

/-- R121: the bit-serial accumulator, fed the header and the payload, produces R119's bytes. -/
def Obligations.SerialPackerRefinesPackBits : Prop :=
  ∀ b : List Bool, packSerial 0 0 (headerAndPayload b) = packBits b

/-- R123: ENCODE of a non-empty legal input whose symbols all have codes and whose result fits: PK holds
the packed concatenation of the codes in input order, and nothing else changes. -/
def Obligations.EncodePacksTheCodes : Prop :=
  ∀ s : State, 0 < s.inLen.toNat → s.inLen.toNat ≤ s.params.maxIn.size →
    s.status.codesValid = true → s.InputLegal →
    (∀ x ∈ s.inputSyms, (codeOf s.code x).len ≠ 0) →
    (s.inputSyms.flatMap fun x => codeBits (codeOf s.code x)).length / 8 + 1 ≤ s.params.maxPk.size →
    ∃ t, exec .encode s = .next t ∧
      t = { s with
        mem := t.mem
        pkLen := t.pkLen
        bitCnt := t.bitCnt
        phase := .idle
        status := { s.status with done := true, err := false, errCode := .none } } ∧
      t.Holds (s.inputSyms.flatMap fun x => codeBits (codeOf s.code x)) ∧
      SameRamBut .pk
        ((s.inputSyms.flatMap fun x => codeBits (codeOf s.code x)).length / 8 + 1) s t

/-- R123: ENCODE of an empty input succeeds without a table: PK = [0x01], PK_LEN = 1, BITCNT = 0. -/
def Obligations.EncodeOfNothing : Prop :=
  ∀ s : State, s.inLen = 0 →
    ∃ t, exec .encode s = .next t ∧
      t = { s with
        mem := t.mem
        pkLen := 1
        bitCnt := 0
        phase := .idle
        status := { s.status with done := true, err := false, errCode := .none } } ∧
      t.elem .pk 0 = 0x01 ∧ SameRamBut .pk 1 s t

/-- R123: the failures of ENCODE in their checking order: BAD_LENGTH; NO_TABLE; INVALID_SYMBOL or NO_CODE
at the lowest index that fails; OUT_OVERFLOW. A failure commits nothing (R143). -/
def Obligations.EncodeFails : Prop :=
  ∀ s : State,
    let failed (c : ErrCode) : State := { s with
      phase := .idle, status := { s.status with done := true, err := true, errCode := c } }
    let goodAt (i : Nat) : Prop := (s.elem .inp i).getLsbD 7 = false ∧
      (codeOf s.code (symOf (s.elem .inp i))).len ≠ 0
    (s.params.maxIn.size < s.inLen.toNat → exec .encode s = .next (failed .badLength)) ∧
    (s.inLen.toNat ≤ s.params.maxIn.size → 0 < s.inLen.toNat → s.status.codesValid = false →
      exec .encode s = .next (failed .noTable)) ∧
    (s.inLen.toNat ≤ s.params.maxIn.size → s.status.codesValid = true →
      ∀ i, i < s.inLen.toNat → (∀ j, j < i → goodAt j) →
        ((s.elem .inp i).getLsbD 7 = true → exec .encode s = .next (failed .invalidSymbol)) ∧
        ((s.elem .inp i).getLsbD 7 = false →
          (codeOf s.code (symOf (s.elem .inp i))).len = 0 →
          exec .encode s = .next (failed .noCode))) ∧
    (s.inLen.toNat ≤ s.params.maxIn.size → 0 < s.inLen.toNat → s.status.codesValid = true →
      (∀ j, j < s.inLen.toNat → goodAt j) →
      s.params.maxPk.size <
        (s.inputSyms.map fun x => (codeOf s.code x).len.toNat).sum / 8 + 1 →
      exec .encode s = .next (failed .outOverflow))

/-- R124: PACK of legal bit characters whose result fits: PK holds the packed bits, and nothing else
changes. -/
def Obligations.PackPacksTheBits : Prop :=
  ∀ s : State, s.bitLen.toNat ≤ s.params.maxBits.size →
    (∀ i, i < s.bitLen.toNat → s.elem .bits i = 0x30 ∨ s.elem .bits i = 0x31) →
    s.bitLen.toNat / 8 + 1 ≤ s.params.maxPk.size →
    ∃ t, exec .pack s = .next t ∧
      t = { s with
        mem := t.mem
        pkLen := t.pkLen
        bitCnt := s.bitLen
        phase := .idle
        status := { s.status with done := true, err := false, errCode := .none } } ∧
      t.Holds ((s.elems .bits s.bitLen.toNat).map fun c => c == 0x31) ∧
      SameRamBut .pk (s.bitLen.toNat / 8 + 1) s t

/-- R124: the failures of PACK in their checking order, each committing nothing (R143). -/
def Obligations.PackFails : Prop :=
  ∀ s : State,
    let failed (c : ErrCode) : State := { s with
      phase := .idle, status := { s.status with done := true, err := true, errCode := c } }
    let legal : Prop := ∀ i, i < s.bitLen.toNat → s.elem .bits i = 0x30 ∨ s.elem .bits i = 0x31
    (s.params.maxBits.size < s.bitLen.toNat → exec .pack s = .next (failed .badLength)) ∧
    (s.bitLen.toNat ≤ s.params.maxBits.size → ¬ legal →
      exec .pack s = .next (failed .invalidBitChar)) ∧
    (s.bitLen.toNat ≤ s.params.maxBits.size → legal →
      s.params.maxPk.size < s.bitLen.toNat / 8 + 1 → exec .pack s = .next (failed .outOverflow))

/-! ### The bit unpacker and the decoder -/

/-- R126, R127: UNPACK with its marker at stream bit `m` of the first eight writes the bits after it as bit
characters and clears PAD_FALLBACK; with no marker there it strips min(8, B) bits and sets
PAD_FALLBACK; nothing else changes. -/
def Obligations.UnpackWritesThePayload : Prop :=
  ∀ (s : State) (p : Nat) (fallback : Bool), s.pkLen.toNat ≤ s.params.maxPk.size →
    s.Strips p fallback →
    8 * s.pkLen.toNat - p ≤ s.params.maxBits.size →
    ∃ t, exec .unpack s = .next t ∧
      t = { s with
        mem := t.mem
        bitLen := t.bitLen
        bitCnt := t.bitLen
        phase := .idle
        status := { s.status with
          done := true, err := false, errCode := .none, padFallback := fallback } } ∧
      t.bitLen.toNat = 8 * s.pkLen.toNat - p ∧
      (∀ i, i < 8 * s.pkLen.toNat - p →
        t.elem .bits i = if s.streamBit (p + i) then 0x31 else 0x30) ∧
      SameRamBut .bits (8 * s.pkLen.toNat - p) s t

/-- R127: the failures of UNPACK in their checking order, each committing nothing (R143). -/
def Obligations.UnpackFails : Prop :=
  ∀ s : State,
    let failed (c : ErrCode) : State := { s with
      phase := .idle, status := { s.status with done := true, err := true, errCode := c } }
    (s.params.maxPk.size < s.pkLen.toNat → exec .unpack s = .next (failed .badLength)) ∧
    ∀ (p : Nat) (fallback : Bool), s.pkLen.toNat ≤ s.params.maxPk.size → s.Strips p fallback →
      s.params.maxBits.size < 8 * s.pkLen.toNat - p →
      exec .unpack s = .next (failed .outOverflow)

/-- R128: where PACK's bits and bytes fit, UNPACK after PACK gives back exactly the bits of BITS with
PAD_FALLBACK = 0; the marker is stream bit k-1, the first 1 of the stream. -/
def Obligations.UnpackInvertsPack : Prop :=
  ∀ s : State, s.bitLen.toNat ≤ s.params.maxBits.size →
    (∀ i, i < s.bitLen.toNat → s.elem .bits i = 0x30 ∨ s.elem .bits i = 0x31) →
    s.bitLen.toNat / 8 + 1 ≤ s.params.maxPk.size →
    ∃ t u, exec .pack s = .next t ∧ exec .unpack t = .next u ∧ t.status.err = false ∧
      u.status.err = false ∧ u.status.padFallback = false ∧ u.bitLen = s.bitLen ∧
      (∀ i, i < s.bitLen.toNat → u.elem .bits i = s.elem .bits i) ∧
      t.streamBit (8 - s.bitLen.toNat % 8 - 1) = true ∧
      ∀ k, k < 8 - s.bitLen.toNat % 8 - 1 → t.streamBit k = false

/-- R130: DECODE of an empty payload needs no tree: DEC_LEN = BITCNT = 0, TRAILING = 0, PAD_FALLBACK as
R126 says; nothing else changes. The empty payloads: PK_LEN = 0, and PK_LEN = 1 with PK[0] = 0x01 or
0x00. -/
def Obligations.DecodeOfNothing : Prop :=
  ∀ s : State,
    (s.pkLen.toNat = 0 ∨ (s.pkLen.toNat = 1 ∧ (s.elem .pk 0 = 0x01 ∨ s.elem .pk 0 = 0x00))) →
    exec .decode s = .next { s with
      decLen := 0
      bitCnt := 0
      phase := .idle
      status := { s.status with
        done := true, err := false, errCode := .none, trailing := false
        padFallback := decide (s.pkLen.toNat = 0 ∨ s.elem .pk 0 = 0x00) } }

/-- R129, R130, R131: DECODE of a payload (the stream bits from `p` on, R126) that is a sequence of complete
code words and then a part of one: DEC holds their symbols, the part is dropped, TRAILING says whether it
is there; nothing else changes. -/
def Obligations.DecodeEmitsTheCodeWords : Prop :=
  ∀ (s : State) (p : Nat) (fallback : Bool) (words : List (List Bool × Sym)) (part : List Bool),
    s.treeAgrees → s.status.treeValid = true → s.pkLen.toNat ≤ s.params.maxPk.size →
    s.Strips p fallback → p < 8 * s.pkLen.toNat →
    s.streamFrom p = (words.flatMap Prod.fst) ++ part →
    (∀ c ∈ words, leafAtPath s.node s.root c.1 = some c.2) →
    (∀ k, k ≤ part.length → leafAtPath s.node s.root (part.take k) = none) →
    words.length ≤ s.params.maxDec.size →
    ∃ t, exec .decode s = .next t ∧
      t = { s with
        mem := t.mem
        decLen := t.decLen
        bitCnt := t.bitCnt
        phase := .idle
        status := { s.status with
          done := true, err := false, errCode := .none, padFallback := fallback
          trailing := decide (part ≠ []) } } ∧
      t.decLen.toNat = words.length ∧ t.bitCnt.toNat = 8 * s.pkLen.toNat - p ∧
      (∀ i (h : i < words.length), (t.elem .dec i).toNat = (words[i]).2.toNat) ∧
      SameRamBut .dec words.length s t

/-- R130: the failures of DECODE in their checking order, each committing nothing (R143). The payload is the
stream bits from `p` on (R126); it overflows DEC where it begins with more than MAX_DEC complete code
words. -/
def Obligations.DecodeFails : Prop :=
  ∀ s : State,
    let failed (c : ErrCode) : State := { s with
      phase := .idle, status := { s.status with done := true, err := true, errCode := c } }
    (s.params.maxPk.size < s.pkLen.toNat → exec .decode s = .next (failed .badLength)) ∧
    ∀ (p : Nat) (fallback : Bool), s.pkLen.toNat ≤ s.params.maxPk.size → s.Strips p fallback →
      (p < 8 * s.pkLen.toNat → s.status.treeValid = false →
        exec .decode s = .next (failed .noTree)) ∧
      ∀ (words : List (List Bool × Sym)) (rest : List Bool), s.status.treeValid = true →
        s.streamFrom p = (words.flatMap Prod.fst) ++ rest →
        (∀ c ∈ words, c.1 ≠ [] ∧ leafAtPath s.node s.root c.1 = some c.2) →
        s.params.maxDec.size < words.length →
        exec .decode s = .next (failed .outOverflow)

/-- R132: the round trip: after a successful ENCODE_ALL, DECODE gives back the input, with TRAILING = 0
and PAD_FALLBACK = 0, provided the input fits DEC. -/
def Obligations.DecodeInvertsEncodeAll : Prop :=
  ∀ s t : State, exec .encodeAll s = .next t → t.status.err = false →
    s.inLen.toNat ≤ s.params.maxDec.size →
    ∃ u, exec .decode t = .next u ∧ u.status.err = false ∧ u.status.trailing = false ∧
      u.status.padFallback = false ∧ u.decLen = s.inLen ∧
      ∀ i, i < s.inLen.toNat → u.elem .dec i = s.elem .inp i

/-! ### Composite commands -/

/-- R135: ENCODE_ALL of a non-empty legal input that fits even at the longest code length succeeds: a
valid tree and table, and PK holds the input's packed codes. -/
def Obligations.EncodeAllEncodesTheInput : Prop :=
  ∀ s : State, 0 < s.inLen.toNat → s.inLen.toNat ≤ s.params.maxIn.size → s.InputLegal →
    127 * s.inLen.toNat / 8 + 1 ≤ s.params.maxPk.size →
    ∃ t, exec .encodeAll s = .next t ∧ t.phase = .idle ∧ t.status.done = true ∧
      t.status.err = false ∧ t.status.errCode = .none ∧ t.status.treeValid = true ∧
      t.status.codesValid = true ∧ t.status.empty = false ∧ t.total = s.inLen ∧
      t.R62Holds ∧ (∀ x ∈ s.inputSyms, (codeOf t.code x).len ≠ 0) ∧
      t.Holds (s.inputSyms.flatMap fun x => codeBits (codeOf t.code x)) ∧
      SameRamBut .pk t.pkLen.toNat s t ∧
      t = { s with
        cnt := t.cnt, total := t.total, slist := t.slist, slistLen := t.slistLen, node := t.node
        nodeCnt := t.nodeCnt, root := t.root, code := t.code, mem := t.mem, pkLen := t.pkLen
        bitCnt := t.bitCnt, phase := t.phase, status := { t.status with
          accessErr := s.status.accessErr, padFallback := s.status.padFallback
          trailing := s.status.trailing } }

/-- R135, R143, R144: ENCODE_ALL is COUNT, then SORT, then BUILD_TREE and BUILD_CODES if SORT left at least
two entries, then ENCODE; a failing COUNT or ENCODE ends it with that stage's failure, and the results of
the stages before stay. -/
def Obligations.EncodeAllIsItsStages : Prop :=
  ∀ s a b : State, exec .count s = .next a →
    (a.status.err = true → exec .encodeAll s = .next a) ∧
    (a.status.err = false → exec .sort a = .next b →
      (b.slistLen.toNat < 2 → exec .encodeAll s = exec .encode b) ∧
      (2 ≤ b.slistLen.toNat → ∀ c d, exec .buildTree b = .next c → c.status.err = false →
        exec .buildCodes c = .next d → exec .encodeAll s = exec .encode d))

/-- R136, R143: BUILD is BUILD_TREE and then BUILD_CODES: on an accepted list both flags are set and the
table is the new tree's; a failure of BUILD_TREE is BUILD's. -/
def Obligations.BuildRebuildsTreeAndCodes : Prop :=
  ∀ s : State,
    (¬ s.ListAccepted → exec .build s = exec .buildTree s) ∧
    (s.ListAccepted → ∃ t u, exec .buildTree s = .next t ∧ exec .buildCodes t = .next u ∧
      exec .build s = .next u ∧
      u = { s with
        node := u.node, nodeCnt := u.nodeCnt, root := u.root, code := u.code
        phase := .idle
        status := { s.status with
          done := true, err := false, errCode := .none, treeValid := true, codesValid := true } })

/-! ### Invariants -/

/-- The three invariants hold after every reset: R62; the canonical form of memory, which is the model's
choice (log 1), and that it lists only elements of buffers; and the completion fields (R34, R36, R89,
R140). -/
def Obligations.ResetMeetsTheInvariants : Prop :=
  ∀ (p : Params) (e : Nat), (State.resetWith p e).R62Holds ∧ (State.resetWith p e).MemoryOk ∧
    (State.resetWith p e).CompletionFieldsOk

/-- R62: every step keeps the three invariants: TOTAL is the sum of the counts; a valid tree is a full
binary tree of 2L-1 nodes with its root last; a valid code table is the table of the current tree. -/
def Obligations.EveryStepKeepsR62 : Prop :=
  ∀ s t : State, s.R62Holds → step s = .next t → t.R62Holds

/-- Every step keeps the canonical form of memory (the model's choice, log 1), and lists only elements of
buffers. -/
def Obligations.EveryStepKeepsMemoryOk : Prop :=
  ∀ s t : State, s.MemoryOk → step s = .next t → t.MemoryOk

/-- R34, R36, R89, R140: every step keeps the agreement of the completion fields with the phase, and an
illegal word never has latency left. -/
def Obligations.EveryStepKeepsCompletionFields : Prop :=
  ∀ s t : State, s.CompletionFieldsOk → step s = .next t → t.CompletionFieldsOk
end

