-- ==== Sys2Proof/Laws/State.lean ====
section
/-! SUPPORT. One lemma for each field of State under each named update, and for each field of Status under each
named update of the flags: later proofs cite these (all true by rfl) and unfold no record update. -/

namespace Sys2Proof.Machine

/-! ### State.start -/

@[simp] theorem State.start_params (s : State) (w : Word) (n : Nat) :
    (s.start w n).params = s.params := rfl
@[simp] theorem State.start_ctrl (s : State) (w : Word) (n : Nat) :
    (s.start w n).ctrl = s.ctrl := rfl
@[simp] theorem State.start_phase (s : State) (w : Word) (n : Nat) :
    (s.start w n).phase = .busy w n := rfl
@[simp] theorem State.start_status (s : State) (w : Word) (n : Nat) :
    (s.start w n).status = s.status.atStart := rfl
@[simp] theorem State.start_inLen (s : State) (w : Word) (n : Nat) :
    (s.start w n).inLen = s.inLen := rfl
@[simp] theorem State.start_pkLen (s : State) (w : Word) (n : Nat) :
    (s.start w n).pkLen = s.pkLen := rfl
@[simp] theorem State.start_bitLen (s : State) (w : Word) (n : Nat) :
    (s.start w n).bitLen = s.bitLen := rfl
@[simp] theorem State.start_decLen (s : State) (w : Word) (n : Nat) :
    (s.start w n).decLen = s.decLen := rfl
@[simp] theorem State.start_total (s : State) (w : Word) (n : Nat) :
    (s.start w n).total = s.total := rfl
@[simp] theorem State.start_slistLen (s : State) (w : Word) (n : Nat) :
    (s.start w n).slistLen = s.slistLen := rfl
@[simp] theorem State.start_nodeCnt (s : State) (w : Word) (n : Nat) :
    (s.start w n).nodeCnt = s.nodeCnt := rfl
@[simp] theorem State.start_root (s : State) (w : Word) (n : Nat) :
    (s.start w n).root = s.root := rfl
@[simp] theorem State.start_bitCnt (s : State) (w : Word) (n : Nat) :
    (s.start w n).bitCnt = s.bitCnt := rfl
@[simp] theorem State.start_cnt (s : State) (w : Word) (n : Nat) :
    (s.start w n).cnt = s.cnt := rfl
@[simp] theorem State.start_slist (s : State) (w : Word) (n : Nat) :
    (s.start w n).slist = s.slist := rfl
@[simp] theorem State.start_node (s : State) (w : Word) (n : Nat) :
    (s.start w n).node = s.node := rfl
@[simp] theorem State.start_code (s : State) (w : Word) (n : Nat) :
    (s.start w n).code = s.code := rfl
@[simp] theorem State.start_mem (s : State) (w : Word) (n : Nat) :
    (s.start w n).mem = s.mem := rfl
@[simp] theorem State.start_epoch (s : State) (w : Word) (n : Nat) :
    (s.start w n).epoch = s.epoch := rfl
@[simp] theorem State.start_draws (s : State) (w : Word) (n : Nat) :
    (s.start w n).draws = s.draws := rfl
@[simp] theorem State.start_latencies (s : State) (w : Word) (n : Nat) :
    (s.start w n).latencies = s.latencies := rfl
@[simp] theorem State.start_host (s : State) (w : Word) (n : Nat) :
    (s.start w n).host = s.host := rfl
@[simp] theorem State.start_resets (s : State) (w : Word) (n : Nat) :
    (s.start w n).resets = s.resets := rfl
@[simp] theorem State.start_reads (s : State) (w : Word) (n : Nat) :
    (s.start w n).reads = s.reads := rfl

/-! ### State.succeed -/

@[simp] theorem State.succeed_params (s : State) :
    (s.succeed).params = s.params := rfl
@[simp] theorem State.succeed_ctrl (s : State) :
    (s.succeed).ctrl = s.ctrl := rfl
@[simp] theorem State.succeed_phase (s : State) :
    (s.succeed).phase = .idle := rfl
@[simp] theorem State.succeed_status (s : State) :
    (s.succeed).status = s.status.atSuccess := rfl
@[simp] theorem State.succeed_inLen (s : State) :
    (s.succeed).inLen = s.inLen := rfl
@[simp] theorem State.succeed_pkLen (s : State) :
    (s.succeed).pkLen = s.pkLen := rfl
@[simp] theorem State.succeed_bitLen (s : State) :
    (s.succeed).bitLen = s.bitLen := rfl
@[simp] theorem State.succeed_decLen (s : State) :
    (s.succeed).decLen = s.decLen := rfl
@[simp] theorem State.succeed_total (s : State) :
    (s.succeed).total = s.total := rfl
@[simp] theorem State.succeed_slistLen (s : State) :
    (s.succeed).slistLen = s.slistLen := rfl
@[simp] theorem State.succeed_nodeCnt (s : State) :
    (s.succeed).nodeCnt = s.nodeCnt := rfl
@[simp] theorem State.succeed_root (s : State) :
    (s.succeed).root = s.root := rfl
@[simp] theorem State.succeed_bitCnt (s : State) :
    (s.succeed).bitCnt = s.bitCnt := rfl
@[simp] theorem State.succeed_cnt (s : State) :
    (s.succeed).cnt = s.cnt := rfl
@[simp] theorem State.succeed_slist (s : State) :
    (s.succeed).slist = s.slist := rfl
@[simp] theorem State.succeed_node (s : State) :
    (s.succeed).node = s.node := rfl
@[simp] theorem State.succeed_code (s : State) :
    (s.succeed).code = s.code := rfl
@[simp] theorem State.succeed_mem (s : State) :
    (s.succeed).mem = s.mem := rfl
@[simp] theorem State.succeed_epoch (s : State) :
    (s.succeed).epoch = s.epoch := rfl
@[simp] theorem State.succeed_draws (s : State) :
    (s.succeed).draws = s.draws := rfl
@[simp] theorem State.succeed_latencies (s : State) :
    (s.succeed).latencies = s.latencies := rfl
@[simp] theorem State.succeed_host (s : State) :
    (s.succeed).host = s.host := rfl
@[simp] theorem State.succeed_resets (s : State) :
    (s.succeed).resets = s.resets := rfl
@[simp] theorem State.succeed_reads (s : State) :
    (s.succeed).reads = s.reads := rfl

/-! ### State.takeFailure -/

@[simp] theorem State.takeFailure_params (s : State) (c : ErrCode) :
    (s.takeFailure c).params = s.params := rfl
@[simp] theorem State.takeFailure_ctrl (s : State) (c : ErrCode) :
    (s.takeFailure c).ctrl = s.ctrl := rfl
@[simp] theorem State.takeFailure_phase (s : State) (c : ErrCode) :
    (s.takeFailure c).phase = .idle := rfl
@[simp] theorem State.takeFailure_status (s : State) (c : ErrCode) :
    (s.takeFailure c).status = s.status.atFailure c := rfl
@[simp] theorem State.takeFailure_inLen (s : State) (c : ErrCode) :
    (s.takeFailure c).inLen = s.inLen := rfl
@[simp] theorem State.takeFailure_pkLen (s : State) (c : ErrCode) :
    (s.takeFailure c).pkLen = s.pkLen := rfl
@[simp] theorem State.takeFailure_bitLen (s : State) (c : ErrCode) :
    (s.takeFailure c).bitLen = s.bitLen := rfl
@[simp] theorem State.takeFailure_decLen (s : State) (c : ErrCode) :
    (s.takeFailure c).decLen = s.decLen := rfl
@[simp] theorem State.takeFailure_total (s : State) (c : ErrCode) :
    (s.takeFailure c).total = s.total := rfl
@[simp] theorem State.takeFailure_slistLen (s : State) (c : ErrCode) :
    (s.takeFailure c).slistLen = s.slistLen := rfl
@[simp] theorem State.takeFailure_nodeCnt (s : State) (c : ErrCode) :
    (s.takeFailure c).nodeCnt = s.nodeCnt := rfl
@[simp] theorem State.takeFailure_root (s : State) (c : ErrCode) :
    (s.takeFailure c).root = s.root := rfl
@[simp] theorem State.takeFailure_bitCnt (s : State) (c : ErrCode) :
    (s.takeFailure c).bitCnt = s.bitCnt := rfl
@[simp] theorem State.takeFailure_cnt (s : State) (c : ErrCode) :
    (s.takeFailure c).cnt = s.cnt := rfl
@[simp] theorem State.takeFailure_slist (s : State) (c : ErrCode) :
    (s.takeFailure c).slist = s.slist := rfl
@[simp] theorem State.takeFailure_node (s : State) (c : ErrCode) :
    (s.takeFailure c).node = s.node := rfl
@[simp] theorem State.takeFailure_code (s : State) (c : ErrCode) :
    (s.takeFailure c).code = s.code := rfl
@[simp] theorem State.takeFailure_mem (s : State) (c : ErrCode) :
    (s.takeFailure c).mem = s.mem := rfl
@[simp] theorem State.takeFailure_epoch (s : State) (c : ErrCode) :
    (s.takeFailure c).epoch = s.epoch := rfl
@[simp] theorem State.takeFailure_draws (s : State) (c : ErrCode) :
    (s.takeFailure c).draws = s.draws := rfl
@[simp] theorem State.takeFailure_latencies (s : State) (c : ErrCode) :
    (s.takeFailure c).latencies = s.latencies := rfl
@[simp] theorem State.takeFailure_host (s : State) (c : ErrCode) :
    (s.takeFailure c).host = s.host := rfl
@[simp] theorem State.takeFailure_resets (s : State) (c : ErrCode) :
    (s.takeFailure c).resets = s.resets := rfl
@[simp] theorem State.takeFailure_reads (s : State) (c : ErrCode) :
    (s.takeFailure c).reads = s.reads := rfl

/-! ### State.acknowledge -/

@[simp] theorem State.acknowledge_params (s : State) (v : Word) :
    (s.acknowledge v).params = s.params := rfl
@[simp] theorem State.acknowledge_ctrl (s : State) (v : Word) :
    (s.acknowledge v).ctrl = s.ctrl := rfl
@[simp] theorem State.acknowledge_phase (s : State) (v : Word) :
    (s.acknowledge v).phase = s.phase := rfl
@[simp] theorem State.acknowledge_status (s : State) (v : Word) :
    (s.acknowledge v).status = s.status.writeOneToClear v := rfl
@[simp] theorem State.acknowledge_inLen (s : State) (v : Word) :
    (s.acknowledge v).inLen = s.inLen := rfl
@[simp] theorem State.acknowledge_pkLen (s : State) (v : Word) :
    (s.acknowledge v).pkLen = s.pkLen := rfl
@[simp] theorem State.acknowledge_bitLen (s : State) (v : Word) :
    (s.acknowledge v).bitLen = s.bitLen := rfl
@[simp] theorem State.acknowledge_decLen (s : State) (v : Word) :
    (s.acknowledge v).decLen = s.decLen := rfl
@[simp] theorem State.acknowledge_total (s : State) (v : Word) :
    (s.acknowledge v).total = s.total := rfl
@[simp] theorem State.acknowledge_slistLen (s : State) (v : Word) :
    (s.acknowledge v).slistLen = s.slistLen := rfl
@[simp] theorem State.acknowledge_nodeCnt (s : State) (v : Word) :
    (s.acknowledge v).nodeCnt = s.nodeCnt := rfl
@[simp] theorem State.acknowledge_root (s : State) (v : Word) :
    (s.acknowledge v).root = s.root := rfl
@[simp] theorem State.acknowledge_bitCnt (s : State) (v : Word) :
    (s.acknowledge v).bitCnt = s.bitCnt := rfl
@[simp] theorem State.acknowledge_cnt (s : State) (v : Word) :
    (s.acknowledge v).cnt = s.cnt := rfl
@[simp] theorem State.acknowledge_slist (s : State) (v : Word) :
    (s.acknowledge v).slist = s.slist := rfl
@[simp] theorem State.acknowledge_node (s : State) (v : Word) :
    (s.acknowledge v).node = s.node := rfl
@[simp] theorem State.acknowledge_code (s : State) (v : Word) :
    (s.acknowledge v).code = s.code := rfl
@[simp] theorem State.acknowledge_mem (s : State) (v : Word) :
    (s.acknowledge v).mem = s.mem := rfl
@[simp] theorem State.acknowledge_epoch (s : State) (v : Word) :
    (s.acknowledge v).epoch = s.epoch := rfl
@[simp] theorem State.acknowledge_draws (s : State) (v : Word) :
    (s.acknowledge v).draws = s.draws := rfl
@[simp] theorem State.acknowledge_latencies (s : State) (v : Word) :
    (s.acknowledge v).latencies = s.latencies := rfl
@[simp] theorem State.acknowledge_host (s : State) (v : Word) :
    (s.acknowledge v).host = s.host := rfl
@[simp] theorem State.acknowledge_resets (s : State) (v : Word) :
    (s.acknowledge v).resets = s.resets := rfl
@[simp] theorem State.acknowledge_reads (s : State) (v : Word) :
    (s.acknowledge v).reads = s.reads := rfl

/-! ### State.reject -/

@[simp] theorem State.reject_params (s : State) :
    (s.reject).params = s.params := rfl
@[simp] theorem State.reject_ctrl (s : State) :
    (s.reject).ctrl = s.ctrl := rfl
@[simp] theorem State.reject_phase (s : State) :
    (s.reject).phase = s.phase := rfl
@[simp] theorem State.reject_status (s : State) :
    (s.reject).status = s.status.rejectAccess := rfl
@[simp] theorem State.reject_inLen (s : State) :
    (s.reject).inLen = s.inLen := rfl
@[simp] theorem State.reject_pkLen (s : State) :
    (s.reject).pkLen = s.pkLen := rfl
@[simp] theorem State.reject_bitLen (s : State) :
    (s.reject).bitLen = s.bitLen := rfl
@[simp] theorem State.reject_decLen (s : State) :
    (s.reject).decLen = s.decLen := rfl
@[simp] theorem State.reject_total (s : State) :
    (s.reject).total = s.total := rfl
@[simp] theorem State.reject_slistLen (s : State) :
    (s.reject).slistLen = s.slistLen := rfl
@[simp] theorem State.reject_nodeCnt (s : State) :
    (s.reject).nodeCnt = s.nodeCnt := rfl
@[simp] theorem State.reject_root (s : State) :
    (s.reject).root = s.root := rfl
@[simp] theorem State.reject_bitCnt (s : State) :
    (s.reject).bitCnt = s.bitCnt := rfl
@[simp] theorem State.reject_cnt (s : State) :
    (s.reject).cnt = s.cnt := rfl
@[simp] theorem State.reject_slist (s : State) :
    (s.reject).slist = s.slist := rfl
@[simp] theorem State.reject_node (s : State) :
    (s.reject).node = s.node := rfl
@[simp] theorem State.reject_code (s : State) :
    (s.reject).code = s.code := rfl
@[simp] theorem State.reject_mem (s : State) :
    (s.reject).mem = s.mem := rfl
@[simp] theorem State.reject_epoch (s : State) :
    (s.reject).epoch = s.epoch := rfl
@[simp] theorem State.reject_draws (s : State) :
    (s.reject).draws = s.draws := rfl
@[simp] theorem State.reject_latencies (s : State) :
    (s.reject).latencies = s.latencies := rfl
@[simp] theorem State.reject_host (s : State) :
    (s.reject).host = s.host := rfl
@[simp] theorem State.reject_resets (s : State) :
    (s.reject).resets = s.resets := rfl
@[simp] theorem State.reject_reads (s : State) :
    (s.reject).reads = s.reads := rfl

/-! ### State.setElems -/

@[simp] theorem State.setElems_params (s : State) (b : Buffer) (l : List Byte) :
    (s.setElems b l).params = s.params := rfl
@[simp] theorem State.setElems_ctrl (s : State) (b : Buffer) (l : List Byte) :
    (s.setElems b l).ctrl = s.ctrl := rfl
@[simp] theorem State.setElems_phase (s : State) (b : Buffer) (l : List Byte) :
    (s.setElems b l).phase = s.phase := rfl
@[simp] theorem State.setElems_status (s : State) (b : Buffer) (l : List Byte) :
    (s.setElems b l).status = s.status := rfl
@[simp] theorem State.setElems_inLen (s : State) (b : Buffer) (l : List Byte) :
    (s.setElems b l).inLen = s.inLen := rfl
@[simp] theorem State.setElems_pkLen (s : State) (b : Buffer) (l : List Byte) :
    (s.setElems b l).pkLen = s.pkLen := rfl
@[simp] theorem State.setElems_bitLen (s : State) (b : Buffer) (l : List Byte) :
    (s.setElems b l).bitLen = s.bitLen := rfl
@[simp] theorem State.setElems_decLen (s : State) (b : Buffer) (l : List Byte) :
    (s.setElems b l).decLen = s.decLen := rfl
@[simp] theorem State.setElems_total (s : State) (b : Buffer) (l : List Byte) :
    (s.setElems b l).total = s.total := rfl
@[simp] theorem State.setElems_slistLen (s : State) (b : Buffer) (l : List Byte) :
    (s.setElems b l).slistLen = s.slistLen := rfl
@[simp] theorem State.setElems_nodeCnt (s : State) (b : Buffer) (l : List Byte) :
    (s.setElems b l).nodeCnt = s.nodeCnt := rfl
@[simp] theorem State.setElems_root (s : State) (b : Buffer) (l : List Byte) :
    (s.setElems b l).root = s.root := rfl
@[simp] theorem State.setElems_bitCnt (s : State) (b : Buffer) (l : List Byte) :
    (s.setElems b l).bitCnt = s.bitCnt := rfl
@[simp] theorem State.setElems_cnt (s : State) (b : Buffer) (l : List Byte) :
    (s.setElems b l).cnt = s.cnt := rfl
@[simp] theorem State.setElems_slist (s : State) (b : Buffer) (l : List Byte) :
    (s.setElems b l).slist = s.slist := rfl
@[simp] theorem State.setElems_node (s : State) (b : Buffer) (l : List Byte) :
    (s.setElems b l).node = s.node := rfl
@[simp] theorem State.setElems_code (s : State) (b : Buffer) (l : List Byte) :
    (s.setElems b l).code = s.code := rfl
@[simp] theorem State.setElems_mem (s : State) (b : Buffer) (l : List Byte) :
    (s.setElems b l).mem = Memory.setAll s.mem b.base l := rfl
@[simp] theorem State.setElems_epoch (s : State) (b : Buffer) (l : List Byte) :
    (s.setElems b l).epoch = s.epoch := rfl
@[simp] theorem State.setElems_draws (s : State) (b : Buffer) (l : List Byte) :
    (s.setElems b l).draws = s.draws := rfl
@[simp] theorem State.setElems_latencies (s : State) (b : Buffer) (l : List Byte) :
    (s.setElems b l).latencies = s.latencies := rfl
@[simp] theorem State.setElems_host (s : State) (b : Buffer) (l : List Byte) :
    (s.setElems b l).host = s.host := rfl
@[simp] theorem State.setElems_resets (s : State) (b : Buffer) (l : List Byte) :
    (s.setElems b l).resets = s.resets := rfl
@[simp] theorem State.setElems_reads (s : State) (b : Buffer) (l : List Byte) :
    (s.setElems b l).reads = s.reads := rfl

/-! ### State.commitPacked -/

@[simp] theorem State.commitPacked_params (s : State) (l : List Bool) :
    (s.commitPacked l).params = s.params := rfl
@[simp] theorem State.commitPacked_ctrl (s : State) (l : List Bool) :
    (s.commitPacked l).ctrl = s.ctrl := rfl
@[simp] theorem State.commitPacked_phase (s : State) (l : List Bool) :
    (s.commitPacked l).phase = s.phase := rfl
@[simp] theorem State.commitPacked_status (s : State) (l : List Bool) :
    (s.commitPacked l).status = s.status := rfl
@[simp] theorem State.commitPacked_inLen (s : State) (l : List Bool) :
    (s.commitPacked l).inLen = s.inLen := rfl
@[simp] theorem State.commitPacked_pkLen (s : State) (l : List Bool) :
    (s.commitPacked l).pkLen = BitVec.ofNat 32 (packedSize l.length) := rfl
@[simp] theorem State.commitPacked_bitLen (s : State) (l : List Bool) :
    (s.commitPacked l).bitLen = s.bitLen := rfl
@[simp] theorem State.commitPacked_decLen (s : State) (l : List Bool) :
    (s.commitPacked l).decLen = s.decLen := rfl
@[simp] theorem State.commitPacked_total (s : State) (l : List Bool) :
    (s.commitPacked l).total = s.total := rfl
@[simp] theorem State.commitPacked_slistLen (s : State) (l : List Bool) :
    (s.commitPacked l).slistLen = s.slistLen := rfl
@[simp] theorem State.commitPacked_nodeCnt (s : State) (l : List Bool) :
    (s.commitPacked l).nodeCnt = s.nodeCnt := rfl
@[simp] theorem State.commitPacked_root (s : State) (l : List Bool) :
    (s.commitPacked l).root = s.root := rfl
@[simp] theorem State.commitPacked_bitCnt (s : State) (l : List Bool) :
    (s.commitPacked l).bitCnt = BitVec.ofNat 32 l.length := rfl
@[simp] theorem State.commitPacked_cnt (s : State) (l : List Bool) :
    (s.commitPacked l).cnt = s.cnt := rfl
@[simp] theorem State.commitPacked_slist (s : State) (l : List Bool) :
    (s.commitPacked l).slist = s.slist := rfl
@[simp] theorem State.commitPacked_node (s : State) (l : List Bool) :
    (s.commitPacked l).node = s.node := rfl
@[simp] theorem State.commitPacked_code (s : State) (l : List Bool) :
    (s.commitPacked l).code = s.code := rfl
@[simp] theorem State.commitPacked_mem (s : State) (l : List Bool) :
    (s.commitPacked l).mem = Memory.setAll s.mem Buffer.pk.base (packBits l) := rfl
@[simp] theorem State.commitPacked_epoch (s : State) (l : List Bool) :
    (s.commitPacked l).epoch = s.epoch := rfl
@[simp] theorem State.commitPacked_draws (s : State) (l : List Bool) :
    (s.commitPacked l).draws = s.draws := rfl
@[simp] theorem State.commitPacked_latencies (s : State) (l : List Bool) :
    (s.commitPacked l).latencies = s.latencies := rfl
@[simp] theorem State.commitPacked_host (s : State) (l : List Bool) :
    (s.commitPacked l).host = s.host := rfl
@[simp] theorem State.commitPacked_resets (s : State) (l : List Bool) :
    (s.commitPacked l).resets = s.resets := rfl
@[simp] theorem State.commitPacked_reads (s : State) (l : List Bool) :
    (s.commitPacked l).reads = s.reads := rfl

/-! ### State.acceptCommand -/

theorem State.latencyOf_ok {w : Word} {i : Instr} (h : decode w = .ok i) (s : State) :
    s.latencyOf w = s.nextLatency := by rw [State.latencyOf, h]
theorem State.latencyOf_error {w : Word} {e : Illegal} (h : decode w = .error e) (s : State) :
    s.latencyOf w = 0 := by rw [State.latencyOf, h]
theorem State.latenciesAfter_ok {w : Word} {i : Instr} (h : decode w = .ok i) (s : State) :
    s.latenciesAfter w = s.latencies.tail := by rw [State.latenciesAfter, h]
theorem State.latenciesAfter_error {w : Word} {e : Illegal} (h : decode w = .error e) (s : State) :
    s.latenciesAfter w = s.latencies := by rw [State.latenciesAfter, h]

@[simp] theorem State.acceptCommand_params (s : State) (w : Word) :
    (s.acceptCommand w).params = s.params := rfl
@[simp] theorem State.acceptCommand_ctrl (s : State) (w : Word) :
    (s.acceptCommand w).ctrl = s.ctrl := rfl
@[simp] theorem State.acceptCommand_phase (s : State) (w : Word) :
    (s.acceptCommand w).phase = .busy w (s.latencyOf w) := rfl
@[simp] theorem State.acceptCommand_status (s : State) (w : Word) :
    (s.acceptCommand w).status = s.status.atStart := rfl
@[simp] theorem State.acceptCommand_inLen (s : State) (w : Word) :
    (s.acceptCommand w).inLen = s.inLen := rfl
@[simp] theorem State.acceptCommand_pkLen (s : State) (w : Word) :
    (s.acceptCommand w).pkLen = s.pkLen := rfl
@[simp] theorem State.acceptCommand_bitLen (s : State) (w : Word) :
    (s.acceptCommand w).bitLen = s.bitLen := rfl
@[simp] theorem State.acceptCommand_decLen (s : State) (w : Word) :
    (s.acceptCommand w).decLen = s.decLen := rfl
@[simp] theorem State.acceptCommand_total (s : State) (w : Word) :
    (s.acceptCommand w).total = s.total := rfl
@[simp] theorem State.acceptCommand_slistLen (s : State) (w : Word) :
    (s.acceptCommand w).slistLen = s.slistLen := rfl
@[simp] theorem State.acceptCommand_nodeCnt (s : State) (w : Word) :
    (s.acceptCommand w).nodeCnt = s.nodeCnt := rfl
@[simp] theorem State.acceptCommand_root (s : State) (w : Word) :
    (s.acceptCommand w).root = s.root := rfl
@[simp] theorem State.acceptCommand_bitCnt (s : State) (w : Word) :
    (s.acceptCommand w).bitCnt = s.bitCnt := rfl
@[simp] theorem State.acceptCommand_cnt (s : State) (w : Word) :
    (s.acceptCommand w).cnt = s.cnt := rfl
@[simp] theorem State.acceptCommand_slist (s : State) (w : Word) :
    (s.acceptCommand w).slist = s.slist := rfl
@[simp] theorem State.acceptCommand_node (s : State) (w : Word) :
    (s.acceptCommand w).node = s.node := rfl
@[simp] theorem State.acceptCommand_code (s : State) (w : Word) :
    (s.acceptCommand w).code = s.code := rfl
@[simp] theorem State.acceptCommand_mem (s : State) (w : Word) :
    (s.acceptCommand w).mem = s.mem := rfl
@[simp] theorem State.acceptCommand_epoch (s : State) (w : Word) :
    (s.acceptCommand w).epoch = s.epoch := rfl
@[simp] theorem State.acceptCommand_draws (s : State) (w : Word) :
    (s.acceptCommand w).draws = s.draws := rfl
@[simp] theorem State.acceptCommand_latencies (s : State) (w : Word) :
    (s.acceptCommand w).latencies = s.latenciesAfter w := rfl
@[simp] theorem State.acceptCommand_host (s : State) (w : Word) :
    (s.acceptCommand w).host = s.host := rfl
@[simp] theorem State.acceptCommand_resets (s : State) (w : Word) :
    (s.acceptCommand w).resets = s.resets := rfl
@[simp] theorem State.acceptCommand_reads (s : State) (w : Word) :
    (s.acceptCommand w).reads = s.reads := rfl

/-! ### State.hostDone -/

@[simp] theorem State.hostDone_params (s : State) (l : List HostOp) :
    (s.hostDone l).params = s.params := rfl
@[simp] theorem State.hostDone_ctrl (s : State) (l : List HostOp) :
    (s.hostDone l).ctrl = s.ctrl := rfl
@[simp] theorem State.hostDone_phase (s : State) (l : List HostOp) :
    (s.hostDone l).phase = s.phase := rfl
@[simp] theorem State.hostDone_status (s : State) (l : List HostOp) :
    (s.hostDone l).status = s.status := rfl
@[simp] theorem State.hostDone_inLen (s : State) (l : List HostOp) :
    (s.hostDone l).inLen = s.inLen := rfl
@[simp] theorem State.hostDone_pkLen (s : State) (l : List HostOp) :
    (s.hostDone l).pkLen = s.pkLen := rfl
@[simp] theorem State.hostDone_bitLen (s : State) (l : List HostOp) :
    (s.hostDone l).bitLen = s.bitLen := rfl
@[simp] theorem State.hostDone_decLen (s : State) (l : List HostOp) :
    (s.hostDone l).decLen = s.decLen := rfl
@[simp] theorem State.hostDone_total (s : State) (l : List HostOp) :
    (s.hostDone l).total = s.total := rfl
@[simp] theorem State.hostDone_slistLen (s : State) (l : List HostOp) :
    (s.hostDone l).slistLen = s.slistLen := rfl
@[simp] theorem State.hostDone_nodeCnt (s : State) (l : List HostOp) :
    (s.hostDone l).nodeCnt = s.nodeCnt := rfl
@[simp] theorem State.hostDone_root (s : State) (l : List HostOp) :
    (s.hostDone l).root = s.root := rfl
@[simp] theorem State.hostDone_bitCnt (s : State) (l : List HostOp) :
    (s.hostDone l).bitCnt = s.bitCnt := rfl
@[simp] theorem State.hostDone_cnt (s : State) (l : List HostOp) :
    (s.hostDone l).cnt = s.cnt := rfl
@[simp] theorem State.hostDone_slist (s : State) (l : List HostOp) :
    (s.hostDone l).slist = s.slist := rfl
@[simp] theorem State.hostDone_node (s : State) (l : List HostOp) :
    (s.hostDone l).node = s.node := rfl
@[simp] theorem State.hostDone_code (s : State) (l : List HostOp) :
    (s.hostDone l).code = s.code := rfl
@[simp] theorem State.hostDone_mem (s : State) (l : List HostOp) :
    (s.hostDone l).mem = s.mem := rfl
@[simp] theorem State.hostDone_epoch (s : State) (l : List HostOp) :
    (s.hostDone l).epoch = s.epoch := rfl
@[simp] theorem State.hostDone_draws (s : State) (l : List HostOp) :
    (s.hostDone l).draws = s.draws := rfl
@[simp] theorem State.hostDone_latencies (s : State) (l : List HostOp) :
    (s.hostDone l).latencies = s.latencies := rfl
@[simp] theorem State.hostDone_host (s : State) (l : List HostOp) :
    (s.hostDone l).host = l := rfl
@[simp] theorem State.hostDone_resets (s : State) (l : List HostOp) :
    (s.hostDone l).resets = s.resets := rfl
@[simp] theorem State.hostDone_reads (s : State) (l : List HostOp) :
    (s.hostDone l).reads = s.reads := rfl

/-! ### State.readDone -/

@[simp] theorem State.readDone_params (s : State) (l : List HostOp) (v : Word) :
    (s.readDone l v).params = s.params := rfl
@[simp] theorem State.readDone_ctrl (s : State) (l : List HostOp) (v : Word) :
    (s.readDone l v).ctrl = s.ctrl := rfl
@[simp] theorem State.readDone_phase (s : State) (l : List HostOp) (v : Word) :
    (s.readDone l v).phase = s.phase := rfl
@[simp] theorem State.readDone_status (s : State) (l : List HostOp) (v : Word) :
    (s.readDone l v).status = s.status := rfl
@[simp] theorem State.readDone_inLen (s : State) (l : List HostOp) (v : Word) :
    (s.readDone l v).inLen = s.inLen := rfl
@[simp] theorem State.readDone_pkLen (s : State) (l : List HostOp) (v : Word) :
    (s.readDone l v).pkLen = s.pkLen := rfl
@[simp] theorem State.readDone_bitLen (s : State) (l : List HostOp) (v : Word) :
    (s.readDone l v).bitLen = s.bitLen := rfl
@[simp] theorem State.readDone_decLen (s : State) (l : List HostOp) (v : Word) :
    (s.readDone l v).decLen = s.decLen := rfl
@[simp] theorem State.readDone_total (s : State) (l : List HostOp) (v : Word) :
    (s.readDone l v).total = s.total := rfl
@[simp] theorem State.readDone_slistLen (s : State) (l : List HostOp) (v : Word) :
    (s.readDone l v).slistLen = s.slistLen := rfl
@[simp] theorem State.readDone_nodeCnt (s : State) (l : List HostOp) (v : Word) :
    (s.readDone l v).nodeCnt = s.nodeCnt := rfl
@[simp] theorem State.readDone_root (s : State) (l : List HostOp) (v : Word) :
    (s.readDone l v).root = s.root := rfl
@[simp] theorem State.readDone_bitCnt (s : State) (l : List HostOp) (v : Word) :
    (s.readDone l v).bitCnt = s.bitCnt := rfl
@[simp] theorem State.readDone_cnt (s : State) (l : List HostOp) (v : Word) :
    (s.readDone l v).cnt = s.cnt := rfl
@[simp] theorem State.readDone_slist (s : State) (l : List HostOp) (v : Word) :
    (s.readDone l v).slist = s.slist := rfl
@[simp] theorem State.readDone_node (s : State) (l : List HostOp) (v : Word) :
    (s.readDone l v).node = s.node := rfl
@[simp] theorem State.readDone_code (s : State) (l : List HostOp) (v : Word) :
    (s.readDone l v).code = s.code := rfl
@[simp] theorem State.readDone_mem (s : State) (l : List HostOp) (v : Word) :
    (s.readDone l v).mem = s.mem := rfl
@[simp] theorem State.readDone_epoch (s : State) (l : List HostOp) (v : Word) :
    (s.readDone l v).epoch = s.epoch := rfl
@[simp] theorem State.readDone_draws (s : State) (l : List HostOp) (v : Word) :
    (s.readDone l v).draws = s.draws := rfl
@[simp] theorem State.readDone_latencies (s : State) (l : List HostOp) (v : Word) :
    (s.readDone l v).latencies = s.latencies := rfl
@[simp] theorem State.readDone_host (s : State) (l : List HostOp) (v : Word) :
    (s.readDone l v).host = l := rfl
@[simp] theorem State.readDone_resets (s : State) (l : List HostOp) (v : Word) :
    (s.readDone l v).resets = s.resets := rfl
@[simp] theorem State.readDone_reads (s : State) (l : List HostOp) (v : Word) :
    (s.readDone l v).reads = v :: s.reads := rfl

/-! ### State.resetEvent -/

@[simp] theorem State.resetEvent_params (s : State) :
    (s.resetEvent).params = s.params := rfl
@[simp] theorem State.resetEvent_ctrl (s : State) :
    (s.resetEvent).ctrl = State.reset.ctrl := rfl
@[simp] theorem State.resetEvent_phase (s : State) :
    (s.resetEvent).phase = .idle := rfl
@[simp] theorem State.resetEvent_status (s : State) :
    (s.resetEvent).status = State.reset.status := rfl
@[simp] theorem State.resetEvent_inLen (s : State) :
    (s.resetEvent).inLen = 0 := rfl
@[simp] theorem State.resetEvent_pkLen (s : State) :
    (s.resetEvent).pkLen = 0 := rfl
@[simp] theorem State.resetEvent_bitLen (s : State) :
    (s.resetEvent).bitLen = 0 := rfl
@[simp] theorem State.resetEvent_decLen (s : State) :
    (s.resetEvent).decLen = 0 := rfl
@[simp] theorem State.resetEvent_total (s : State) :
    (s.resetEvent).total = 0 := rfl
@[simp] theorem State.resetEvent_slistLen (s : State) :
    (s.resetEvent).slistLen = 0 := rfl
@[simp] theorem State.resetEvent_nodeCnt (s : State) :
    (s.resetEvent).nodeCnt = 0 := rfl
@[simp] theorem State.resetEvent_root (s : State) :
    (s.resetEvent).root = 0 := rfl
@[simp] theorem State.resetEvent_bitCnt (s : State) :
    (s.resetEvent).bitCnt = 0 := rfl
@[simp] theorem State.resetEvent_cnt (s : State) :
    (s.resetEvent).cnt = Vector.replicate 128 0 := rfl
@[simp] theorem State.resetEvent_slist (s : State) :
    (s.resetEvent).slist = Vector.ofFn fun i => slistAtReset (s.epoch + 1) i := rfl
@[simp] theorem State.resetEvent_node (s : State) :
    (s.resetEvent).node = Vector.ofFn fun i => nodeAtReset (s.epoch + 1) i := rfl
@[simp] theorem State.resetEvent_code (s : State) :
    (s.resetEvent).code = Vector.ofFn fun i => codeAtReset (s.epoch + 1) i := rfl
@[simp] theorem State.resetEvent_mem (s : State) :
    (s.resetEvent).mem = [] := rfl
@[simp] theorem State.resetEvent_epoch (s : State) :
    (s.resetEvent).epoch = s.epoch + 1 := rfl
@[simp] theorem State.resetEvent_draws (s : State) :
    (s.resetEvent).draws = s.draws := rfl
@[simp] theorem State.resetEvent_latencies (s : State) :
    (s.resetEvent).latencies = s.latencies := rfl
@[simp] theorem State.resetEvent_host (s : State) :
    (s.resetEvent).host = s.host := rfl
@[simp] theorem State.resetEvent_resets (s : State) :
    (s.resetEvent).resets = s.resets := rfl
@[simp] theorem State.resetEvent_reads (s : State) :
    (s.resetEvent).reads = s.reads := rfl

/-! ### Status.atStart -/

@[simp] theorem Status.atStart_done (f : Status) :
    (f.atStart).done = false := rfl
@[simp] theorem Status.atStart_err (f : Status) :
    (f.atStart).err = false := rfl
@[simp] theorem Status.atStart_accessErr (f : Status) :
    (f.atStart).accessErr = f.accessErr := rfl
@[simp] theorem Status.atStart_errCode (f : Status) :
    (f.atStart).errCode = .none := rfl
@[simp] theorem Status.atStart_empty (f : Status) :
    (f.atStart).empty = f.empty := rfl
@[simp] theorem Status.atStart_degenerate (f : Status) :
    (f.atStart).degenerate = f.degenerate := rfl
@[simp] theorem Status.atStart_padFallback (f : Status) :
    (f.atStart).padFallback = f.padFallback := rfl
@[simp] theorem Status.atStart_trailing (f : Status) :
    (f.atStart).trailing = f.trailing := rfl
@[simp] theorem Status.atStart_treeValid (f : Status) :
    (f.atStart).treeValid = f.treeValid := rfl
@[simp] theorem Status.atStart_codesValid (f : Status) :
    (f.atStart).codesValid = f.codesValid := rfl

/-! ### Status.atSuccess -/

@[simp] theorem Status.atSuccess_done (f : Status) :
    (f.atSuccess).done = true := rfl
@[simp] theorem Status.atSuccess_err (f : Status) :
    (f.atSuccess).err = false := rfl
@[simp] theorem Status.atSuccess_accessErr (f : Status) :
    (f.atSuccess).accessErr = f.accessErr := rfl
@[simp] theorem Status.atSuccess_errCode (f : Status) :
    (f.atSuccess).errCode = .none := rfl
@[simp] theorem Status.atSuccess_empty (f : Status) :
    (f.atSuccess).empty = f.empty := rfl
@[simp] theorem Status.atSuccess_degenerate (f : Status) :
    (f.atSuccess).degenerate = f.degenerate := rfl
@[simp] theorem Status.atSuccess_padFallback (f : Status) :
    (f.atSuccess).padFallback = f.padFallback := rfl
@[simp] theorem Status.atSuccess_trailing (f : Status) :
    (f.atSuccess).trailing = f.trailing := rfl
@[simp] theorem Status.atSuccess_treeValid (f : Status) :
    (f.atSuccess).treeValid = f.treeValid := rfl
@[simp] theorem Status.atSuccess_codesValid (f : Status) :
    (f.atSuccess).codesValid = f.codesValid := rfl

/-! ### Status.atFailure -/

@[simp] theorem Status.atFailure_done (f : Status) (c : ErrCode) :
    (f.atFailure c).done = true := rfl
@[simp] theorem Status.atFailure_err (f : Status) (c : ErrCode) :
    (f.atFailure c).err = true := rfl
@[simp] theorem Status.atFailure_accessErr (f : Status) (c : ErrCode) :
    (f.atFailure c).accessErr = f.accessErr := rfl
@[simp] theorem Status.atFailure_errCode (f : Status) (c : ErrCode) :
    (f.atFailure c).errCode = c := rfl
@[simp] theorem Status.atFailure_empty (f : Status) (c : ErrCode) :
    (f.atFailure c).empty = f.empty := rfl
@[simp] theorem Status.atFailure_degenerate (f : Status) (c : ErrCode) :
    (f.atFailure c).degenerate = f.degenerate := rfl
@[simp] theorem Status.atFailure_padFallback (f : Status) (c : ErrCode) :
    (f.atFailure c).padFallback = f.padFallback := rfl
@[simp] theorem Status.atFailure_trailing (f : Status) (c : ErrCode) :
    (f.atFailure c).trailing = f.trailing := rfl
@[simp] theorem Status.atFailure_treeValid (f : Status) (c : ErrCode) :
    (f.atFailure c).treeValid = f.treeValid := rfl
@[simp] theorem Status.atFailure_codesValid (f : Status) (c : ErrCode) :
    (f.atFailure c).codesValid = f.codesValid := rfl

/-! ### Status.writeOneToClear -/

@[simp] theorem Status.writeOneToClear_done (f : Status) (v : Word) :
    (f.writeOneToClear v).done = (f.done && !v.getLsbD 1) := rfl
@[simp] theorem Status.writeOneToClear_err (f : Status) (v : Word) :
    (f.writeOneToClear v).err = (f.err && !v.getLsbD 2) := rfl
@[simp] theorem Status.writeOneToClear_accessErr (f : Status) (v : Word) :
    (f.writeOneToClear v).accessErr = (f.accessErr && !v.getLsbD 3) := rfl
@[simp] theorem Status.writeOneToClear_errCode (f : Status) (v : Word) :
    (f.writeOneToClear v).errCode = f.errCode := rfl
@[simp] theorem Status.writeOneToClear_empty (f : Status) (v : Word) :
    (f.writeOneToClear v).empty = f.empty := rfl
@[simp] theorem Status.writeOneToClear_degenerate (f : Status) (v : Word) :
    (f.writeOneToClear v).degenerate = f.degenerate := rfl
@[simp] theorem Status.writeOneToClear_padFallback (f : Status) (v : Word) :
    (f.writeOneToClear v).padFallback = f.padFallback := rfl
@[simp] theorem Status.writeOneToClear_trailing (f : Status) (v : Word) :
    (f.writeOneToClear v).trailing = f.trailing := rfl
@[simp] theorem Status.writeOneToClear_treeValid (f : Status) (v : Word) :
    (f.writeOneToClear v).treeValid = f.treeValid := rfl
@[simp] theorem Status.writeOneToClear_codesValid (f : Status) (v : Word) :
    (f.writeOneToClear v).codesValid = f.codesValid := rfl

/-! ### Status.setEmpty -/

@[simp] theorem Status.setEmpty_done (f : Status) (b : Bool) :
    (f.setEmpty b).done = f.done := rfl
@[simp] theorem Status.setEmpty_err (f : Status) (b : Bool) :
    (f.setEmpty b).err = f.err := rfl
@[simp] theorem Status.setEmpty_accessErr (f : Status) (b : Bool) :
    (f.setEmpty b).accessErr = f.accessErr := rfl
@[simp] theorem Status.setEmpty_errCode (f : Status) (b : Bool) :
    (f.setEmpty b).errCode = f.errCode := rfl
@[simp] theorem Status.setEmpty_empty (f : Status) (b : Bool) :
    (f.setEmpty b).empty = b := rfl
@[simp] theorem Status.setEmpty_degenerate (f : Status) (b : Bool) :
    (f.setEmpty b).degenerate = f.degenerate := rfl
@[simp] theorem Status.setEmpty_padFallback (f : Status) (b : Bool) :
    (f.setEmpty b).padFallback = f.padFallback := rfl
@[simp] theorem Status.setEmpty_trailing (f : Status) (b : Bool) :
    (f.setEmpty b).trailing = f.trailing := rfl
@[simp] theorem Status.setEmpty_treeValid (f : Status) (b : Bool) :
    (f.setEmpty b).treeValid = f.treeValid := rfl
@[simp] theorem Status.setEmpty_codesValid (f : Status) (b : Bool) :
    (f.setEmpty b).codesValid = f.codesValid := rfl

/-! ### Status.setDegenerate -/

@[simp] theorem Status.setDegenerate_done (f : Status) (b : Bool) :
    (f.setDegenerate b).done = f.done := rfl
@[simp] theorem Status.setDegenerate_err (f : Status) (b : Bool) :
    (f.setDegenerate b).err = f.err := rfl
@[simp] theorem Status.setDegenerate_accessErr (f : Status) (b : Bool) :
    (f.setDegenerate b).accessErr = f.accessErr := rfl
@[simp] theorem Status.setDegenerate_errCode (f : Status) (b : Bool) :
    (f.setDegenerate b).errCode = f.errCode := rfl
@[simp] theorem Status.setDegenerate_empty (f : Status) (b : Bool) :
    (f.setDegenerate b).empty = f.empty := rfl
@[simp] theorem Status.setDegenerate_degenerate (f : Status) (b : Bool) :
    (f.setDegenerate b).degenerate = b := rfl
@[simp] theorem Status.setDegenerate_padFallback (f : Status) (b : Bool) :
    (f.setDegenerate b).padFallback = f.padFallback := rfl
@[simp] theorem Status.setDegenerate_trailing (f : Status) (b : Bool) :
    (f.setDegenerate b).trailing = f.trailing := rfl
@[simp] theorem Status.setDegenerate_treeValid (f : Status) (b : Bool) :
    (f.setDegenerate b).treeValid = f.treeValid := rfl
@[simp] theorem Status.setDegenerate_codesValid (f : Status) (b : Bool) :
    (f.setDegenerate b).codesValid = f.codesValid := rfl

/-! ### Status.setPadFallback -/

@[simp] theorem Status.setPadFallback_done (f : Status) (b : Bool) :
    (f.setPadFallback b).done = f.done := rfl
@[simp] theorem Status.setPadFallback_err (f : Status) (b : Bool) :
    (f.setPadFallback b).err = f.err := rfl
@[simp] theorem Status.setPadFallback_accessErr (f : Status) (b : Bool) :
    (f.setPadFallback b).accessErr = f.accessErr := rfl
@[simp] theorem Status.setPadFallback_errCode (f : Status) (b : Bool) :
    (f.setPadFallback b).errCode = f.errCode := rfl
@[simp] theorem Status.setPadFallback_empty (f : Status) (b : Bool) :
    (f.setPadFallback b).empty = f.empty := rfl
@[simp] theorem Status.setPadFallback_degenerate (f : Status) (b : Bool) :
    (f.setPadFallback b).degenerate = f.degenerate := rfl
@[simp] theorem Status.setPadFallback_padFallback (f : Status) (b : Bool) :
    (f.setPadFallback b).padFallback = b := rfl
@[simp] theorem Status.setPadFallback_trailing (f : Status) (b : Bool) :
    (f.setPadFallback b).trailing = f.trailing := rfl
@[simp] theorem Status.setPadFallback_treeValid (f : Status) (b : Bool) :
    (f.setPadFallback b).treeValid = f.treeValid := rfl
@[simp] theorem Status.setPadFallback_codesValid (f : Status) (b : Bool) :
    (f.setPadFallback b).codesValid = f.codesValid := rfl

/-! ### Status.setTrailing -/

@[simp] theorem Status.setTrailing_done (f : Status) (b : Bool) :
    (f.setTrailing b).done = f.done := rfl
@[simp] theorem Status.setTrailing_err (f : Status) (b : Bool) :
    (f.setTrailing b).err = f.err := rfl
@[simp] theorem Status.setTrailing_accessErr (f : Status) (b : Bool) :
    (f.setTrailing b).accessErr = f.accessErr := rfl
@[simp] theorem Status.setTrailing_errCode (f : Status) (b : Bool) :
    (f.setTrailing b).errCode = f.errCode := rfl
@[simp] theorem Status.setTrailing_empty (f : Status) (b : Bool) :
    (f.setTrailing b).empty = f.empty := rfl
@[simp] theorem Status.setTrailing_degenerate (f : Status) (b : Bool) :
    (f.setTrailing b).degenerate = f.degenerate := rfl
@[simp] theorem Status.setTrailing_padFallback (f : Status) (b : Bool) :
    (f.setTrailing b).padFallback = f.padFallback := rfl
@[simp] theorem Status.setTrailing_trailing (f : Status) (b : Bool) :
    (f.setTrailing b).trailing = b := rfl
@[simp] theorem Status.setTrailing_treeValid (f : Status) (b : Bool) :
    (f.setTrailing b).treeValid = f.treeValid := rfl
@[simp] theorem Status.setTrailing_codesValid (f : Status) (b : Bool) :
    (f.setTrailing b).codesValid = f.codesValid := rfl

/-! ### Status.withNewTree -/

@[simp] theorem Status.withNewTree_done (f : Status) :
    (f.withNewTree).done = f.done := rfl
@[simp] theorem Status.withNewTree_err (f : Status) :
    (f.withNewTree).err = f.err := rfl
@[simp] theorem Status.withNewTree_accessErr (f : Status) :
    (f.withNewTree).accessErr = f.accessErr := rfl
@[simp] theorem Status.withNewTree_errCode (f : Status) :
    (f.withNewTree).errCode = f.errCode := rfl
@[simp] theorem Status.withNewTree_empty (f : Status) :
    (f.withNewTree).empty = f.empty := rfl
@[simp] theorem Status.withNewTree_degenerate (f : Status) :
    (f.withNewTree).degenerate = f.degenerate := rfl
@[simp] theorem Status.withNewTree_padFallback (f : Status) :
    (f.withNewTree).padFallback = f.padFallback := rfl
@[simp] theorem Status.withNewTree_trailing (f : Status) :
    (f.withNewTree).trailing = f.trailing := rfl
@[simp] theorem Status.withNewTree_treeValid (f : Status) :
    (f.withNewTree).treeValid = true := rfl
@[simp] theorem Status.withNewTree_codesValid (f : Status) :
    (f.withNewTree).codesValid = false := rfl

/-! ### Status.withNewCodes -/

@[simp] theorem Status.withNewCodes_done (f : Status) :
    (f.withNewCodes).done = f.done := rfl
@[simp] theorem Status.withNewCodes_err (f : Status) :
    (f.withNewCodes).err = f.err := rfl
@[simp] theorem Status.withNewCodes_accessErr (f : Status) :
    (f.withNewCodes).accessErr = f.accessErr := rfl
@[simp] theorem Status.withNewCodes_errCode (f : Status) :
    (f.withNewCodes).errCode = f.errCode := rfl
@[simp] theorem Status.withNewCodes_empty (f : Status) :
    (f.withNewCodes).empty = f.empty := rfl
@[simp] theorem Status.withNewCodes_degenerate (f : Status) :
    (f.withNewCodes).degenerate = f.degenerate := rfl
@[simp] theorem Status.withNewCodes_padFallback (f : Status) :
    (f.withNewCodes).padFallback = f.padFallback := rfl
@[simp] theorem Status.withNewCodes_trailing (f : Status) :
    (f.withNewCodes).trailing = f.trailing := rfl
@[simp] theorem Status.withNewCodes_treeValid (f : Status) :
    (f.withNewCodes).treeValid = f.treeValid := rfl
@[simp] theorem Status.withNewCodes_codesValid (f : Status) :
    (f.withNewCodes).codesValid = true := rfl

/-! ### Status.rejectAccess -/

@[simp] theorem Status.rejectAccess_done (f : Status) :
    (f.rejectAccess).done = f.done := rfl
@[simp] theorem Status.rejectAccess_err (f : Status) :
    (f.rejectAccess).err = f.err := rfl
@[simp] theorem Status.rejectAccess_accessErr (f : Status) :
    (f.rejectAccess).accessErr = true := rfl
@[simp] theorem Status.rejectAccess_errCode (f : Status) :
    (f.rejectAccess).errCode = f.errCode := rfl
@[simp] theorem Status.rejectAccess_empty (f : Status) :
    (f.rejectAccess).empty = f.empty := rfl
@[simp] theorem Status.rejectAccess_degenerate (f : Status) :
    (f.rejectAccess).degenerate = f.degenerate := rfl
@[simp] theorem Status.rejectAccess_padFallback (f : Status) :
    (f.rejectAccess).padFallback = f.padFallback := rfl
@[simp] theorem Status.rejectAccess_trailing (f : Status) :
    (f.rejectAccess).trailing = f.trailing := rfl
@[simp] theorem Status.rejectAccess_treeValid (f : Status) :
    (f.rejectAccess).treeValid = f.treeValid := rfl
@[simp] theorem Status.rejectAccess_codesValid (f : Status) :
    (f.rejectAccess).codesValid = f.codesValid := rfl

/-! ### Status.cleared -/

@[simp] theorem Status.cleared_done (f : Status) :
    (f.cleared).done = f.done := rfl
@[simp] theorem Status.cleared_err (f : Status) :
    (f.cleared).err = f.err := rfl
@[simp] theorem Status.cleared_accessErr (f : Status) :
    (f.cleared).accessErr = false := rfl
@[simp] theorem Status.cleared_errCode (f : Status) :
    (f.cleared).errCode = f.errCode := rfl
@[simp] theorem Status.cleared_empty (f : Status) :
    (f.cleared).empty = false := rfl
@[simp] theorem Status.cleared_degenerate (f : Status) :
    (f.cleared).degenerate = false := rfl
@[simp] theorem Status.cleared_padFallback (f : Status) :
    (f.cleared).padFallback = false := rfl
@[simp] theorem Status.cleared_trailing (f : Status) :
    (f.cleared).trailing = false := rfl
@[simp] theorem Status.cleared_treeValid (f : Status) :
    (f.cleared).treeValid = false := rfl
@[simp] theorem Status.cleared_codesValid (f : Status) :
    (f.cleared).codesValid = false := rfl

end Sys2Proof.Machine
end

