-- ==== Sys2Proof/Laws/Memory.lean ====
section
/-! SUPPORT. Sparse memory: read after write, what a write leaves alone, and that every operation keeps the
canonical form and lists no other offsets; the same for the buffers. -/

namespace Sys2Proof.Machine

/-! ### One byte -/

theorem Memory.find_set_same (m : Memory) (a : Nat) (v : Byte) : (m.set a v).find a = some v := by
  induction m with
  | nil => simp [Memory.set, Memory.find]
  | cons c m ih =>
    obtain ⟨k, b⟩ := c
    unfold Memory.set
    split
    · simp [Memory.find]
    · split
      · simp [Memory.find]
      · simp only [Memory.find, ih]; split
        · omega
        · rfl

theorem Memory.find_set_other (m : Memory) {a a' : Nat} (v : Byte) (h : a' ≠ a) :
    (m.set a v).find a' = m.find a' := by
  induction m with
  | nil => simp [Memory.set, Memory.find, h.symm]
  | cons c m ih =>
    obtain ⟨k, b⟩ := c
    unfold Memory.set
    split
    · simp [Memory.find, h.symm]
    · split
      · subst_vars; simp [Memory.find, h.symm]
      · simp only [Memory.find, ih]

/-- The one lemma about a read after a write. -/
theorem Memory.find_set (m : Memory) (a a' : Nat) (v : Byte) :
    (m.set a v).find a' = if a' = a then some v else m.find a' := by
  split
  · next h => rw [h, m.find_set_same]
  · next h => rw [m.find_set_other v h]

/-- A write lists the written offset and no other new one. -/
theorem Memory.mem_set {m : Memory} {a : Nat} {v : Byte} {c : Host.Cell} (h : c ∈ m.set a v) :
    c = (a, v) ∨ c ∈ m := by
  induction m with
  | nil => simpa [Memory.set] using h
  | cons d m ih =>
    obtain ⟨k, b⟩ := d
    unfold Memory.set at h
    split at h
    · simpa using h
    · split at h
      · rcases List.mem_cons.mp h with h | h
        · exact .inl h
        · exact .inr (List.mem_cons_of_mem _ h)
      · rcases List.mem_cons.mp h with h | h
        · exact .inr (h ▸ List.mem_cons_self)
        · exact (ih h).imp id (List.mem_cons_of_mem _)

/-- A write keeps the canonical form. -/
theorem Memory.set_wf {m : Memory} (h : m.wf) (a : Nat) (v : Byte) : (m.set a v).wf := by
  induction m with
  | nil => simp [Memory.set, Memory.wf]
  | cons d m ih =>
    obtain ⟨k, b⟩ := d
    obtain ⟨h1, h2⟩ := List.pairwise_cons.mp h
    unfold Memory.set
    split
    · next hlt =>
      refine List.pairwise_cons.mpr ⟨?_, h⟩
      intro c hc
      rcases List.mem_cons.mp hc with rfl | hc
      · exact hlt
      · exact lt_trans hlt (h1 c hc)
    · split
      · next heq => subst heq; exact List.pairwise_cons.mpr ⟨h1, h2⟩
      · refine List.pairwise_cons.mpr ⟨?_, ih h2⟩
        intro c hc
        rcases Memory.mem_set hc with rfl | hc
        · show k < a
          omega
        · exact h1 c hc

/-! ### A list of bytes -/

theorem Memory.find_setAll (l : List Byte) (m : Memory) (base a : Nat) :
    (m.setAll base l).find a =
      if base ≤ a ∧ a < base + l.length then l[a - base]? else m.find a := by
  induction l generalizing m base with
  | nil => simp [Memory.setAll]
  | cons b l ih =>
    rw [Memory.setAll, ih, Memory.find_set]
    by_cases h0 : a = base
    · subst h0; simp
    · by_cases h1 : base + 1 ≤ a ∧ a < base + 1 + l.length
      · rw [if_pos h1, if_pos (by simp only [List.length_cons]; omega)]
        obtain ⟨k, rfl⟩ : ∃ k, a = base + 1 + k := ⟨a - (base + 1), by omega⟩
        rw [show base + 1 + k - (base + 1) = k by omega, show base + 1 + k - base = k + 1 by omega]
        rfl
      · rw [if_neg h1, if_neg h0, if_neg (by simp only [List.length_cons]; omega)]

theorem Memory.setAll_wf (l : List Byte) {m : Memory} (h : m.wf) (base : Nat) :
    (m.setAll base l).wf := by
  induction l generalizing m base with
  | nil => exact h
  | cons b l ih => exact ih (Memory.set_wf h _ _) _

theorem Memory.mem_setAll (l : List Byte) {m : Memory} {base : Nat} {c : Host.Cell}
    (h : c ∈ m.setAll base l) : (base ≤ c.1 ∧ c.1 < base + l.length) ∨ c ∈ m := by
  induction l generalizing m base with
  | nil => exact .inr h
  | cons b l ih =>
    simp only [List.length_cons]
    rcases ih h with h | h
    · left; omega
    · rcases Memory.mem_set h with rfl | h
      · left; show base ≤ base ∧ base < _; omega
      · exact .inr h

/-- Memory after reset is in canonical form. -/
theorem reset_mem_wf : State.reset.mem.wf := List.Pairwise.nil

/-! ### Buffers -/

/-- The read of one byte of RAM after a write of a buffer. -/
theorem State.ram_setElems (s : State) (b : Buffer) (l : List Byte) (a : Nat) :
    (s.setElems b l).ram a =
      if base : b.base ≤ a ∧ a < b.base + l.length then l[a - b.base]'(by omega) else s.ram a := by
  simp only [State.ram, State.setElems_mem, State.setElems_epoch, Memory.find_setAll]
  split
  · next h => rw [List.getElem?_eq_getElem (by omega), Option.getD_some]
  · rfl

/-- The written elements of a buffer read as written. -/
theorem State.elem_setElems_same (s : State) (b : Buffer) (l : List Byte) {i : Nat}
    (h : i < l.length) : (s.setElems b l).elem b i = l[i] := by
  rw [State.elem, State.ram_setElems, dif_pos ⟨by omega, by omega⟩]
  simp

/-- RAM outside the written elements is unchanged. -/
theorem State.ram_setElems_other (s : State) (b : Buffer) (l : List Byte) {a : Nat}
    (h : ¬ (b.base ≤ a ∧ a < b.base + l.length)) : (s.setElems b l).ram a = s.ram a := by
  rw [State.ram_setElems, dif_neg h]

@[simp] theorem State.elems_length (s : State) (b : Buffer) (n : Nat) :
    (s.elems b n).length = n := by simp [State.elems]

@[simp] theorem State.elems_getElem (s : State) (b : Buffer) {n i : Nat}
    (h : i < (s.elems b n).length) : (s.elems b n)[i] = s.elem b i := by simp [State.elems]

theorem State.mem_elems {s : State} {b : Buffer} {n : Nat} {x : Byte} :
    x ∈ s.elems b n ↔ ∃ i, i < n ∧ s.elem b i = x := by simp [State.elems]

/-- RAM reads the same where memory and reset count are the same. -/
theorem State.ram_congr {s t : State} (hm : t.mem = s.mem) (he : t.epoch = s.epoch) (a : Nat) :
    t.ram a = s.ram a := by simp only [State.ram, hm, he]

/-! ### Tables -/

/-- The one lemma about `overlay`. -/
theorem getElem_overlay {α : Type} {n : Nat} (v : Vector α n) (l : List α) {i : Nat} (h : i < n) :
    (overlay v l)[i] = (l[i]?).getD v[i] := by simp [overlay]

theorem getElem_overlay_lt {α : Type} {n : Nat} (v : Vector α n) (l : List α) {i : Nat} (h : i < n)
    (hl : i < l.length) : (overlay v l)[i] = l[i] := by
  rw [getElem_overlay, List.getElem?_eq_getElem hl, Option.getD_some]

theorem getElem_overlay_ge {α : Type} {n : Nat} (v : Vector α n) (l : List α) {i : Nat} (h : i < n)
    (hl : l.length ≤ i) : (overlay v l)[i] = v[i] := by
  rw [getElem_overlay, List.getElem?_eq_none hl, Option.getD_none]

end Sys2Proof.Machine
end

