-- ==== Sys2Proof/Laws/Commands.lean ====
section
/-! SUPPORT. What a stage, a command, a turn of the host and a step can do, said once: the inversion
lemmas that later proofs cite instead of unfolding the step. -/

namespace Sys2Proof.Machine

/-! ### Stages and primitive commands -/

@[simp] theorem Run.stage_error (s : State) (c : ErrCode) (f : Stage) :
    (Run.mk s (some c)).stage f = ⟨s, some c⟩ := rfl

theorem Run.stage_ok {s t : State} {f : Stage} (h : f s = .ok t) :
    (Run.mk s none).stage f = ⟨t, none⟩ := by simp only [Run.stage, h]

theorem Run.stage_fail {s : State} {f : Stage} {c : ErrCode} (h : f s = .error c) :
    (Run.mk s none).stage f = ⟨s, some c⟩ := by simp only [Run.stage, h]

/-- A successful stage completes successfully with its commits (R142). -/
theorem primitive_ok {s t : State} {f : Stage} (h : f s = .ok t) :
    primitive f s = .next t.succeed := by
  rw [primitive, Run.begin, Run.stage_ok h]; rfl

/-- A failed stage commits nothing (R143). -/
theorem primitive_fail {s : State} {f : Stage} {c : ErrCode} (h : f s = .error c) :
    primitive f s = .next (s.takeFailure c) := by
  rw [primitive, Run.begin, Run.stage_fail h]; rfl

/-- Everything a primitive command can do. -/
theorem primitive_cases {s u : State} {f : Stage} (h : primitive f s = .next u) :
    (∃ t, f s = .ok t ∧ u = t.succeed) ∨ (∃ c, f s = .error c ∧ u = s.takeFailure c) := by
  cases hf : f s with
  | ok t => rw [primitive_ok hf] at h; exact .inl ⟨t, rfl, by injection h with h; exact h.symm⟩
  | error c =>
    rw [primitive_fail hf] at h; exact .inr ⟨c, rfl, by injection h with h; exact h.symm⟩

/-! ### exec -/

/-- Every command answers a next state, with the engine idle and DONE set (R141). -/
theorem exec_next (i : Instr) (s : State) :
    ∃ t, exec i s = .next t ∧ t.phase = .idle ∧ t.status.done = true := by
  have done : ∀ r : Run, r.complete.phase = .idle ∧ r.complete.status.done = true := by
    rintro ⟨t, _ | c⟩ <;> exact ⟨rfl, rfl⟩
  cases i <;> exact ⟨_, rfl, done _⟩

/-! ### The turns -/

/-- Everything a turn of the host can do. -/
theorem hostTurn_cases {s t : State} (h : hostTurn s = .next t) :
    t = s ∨ (∃ rest, t = s.hostDone rest) ∨
    (∃ addr size rest, s.host = .read addr size :: rest ∧ size = 4 ∧
      t = (s.hostRead addr).2.readDone rest (s.hostRead addr).1) ∨
    (∃ addr size v rest, s.host = .write addr size v :: rest ∧ size = 4 ∧
      t = (s.hostWrite addr v).hostDone rest) := by
  unfold hostTurn at h
  split at h
  · injection h with h; exact .inl h.symm
  · injection h with h; exact .inr (.inl ⟨_, h.symm⟩)
  · split at h
    · injection h with h; exact .inl h.symm
    · injection h with h; exact .inr (.inl ⟨_, h.symm⟩)
  · split at h
    · injection h with h; exact .inr (.inl ⟨_, h.symm⟩)
    · split at h
      · injection h with h; exact .inl h.symm
      · cases h
  · split at h
    · next hh hs => injection h with h; exact .inr (.inr (.inl ⟨_, _, _, hh, hs, h.symm⟩))
    · cases h
  · split at h
    · next hh hs => injection h with h; exact .inr (.inr (.inr ⟨_, _, _, _, hh, hs, h.symm⟩))
    · cases h

/-- Everything a host read can do to the state (R75, R77, R81). -/
theorem hostRead_cases (s : State) (addr : Word) :
    (s.hostRead addr).2 = s ∨ (s.hostRead addr).2 = s.reject ∨
      (s.hostRead addr).2 = { s with draws := s.draws + 1 } := by
  unfold State.hostRead
  split
  · exact .inr (.inl rfl)
  · split
    · exact .inr (.inr rfl)
    · exact .inl rfl

/-- Everything a host write can do: it is rejected, it is a write to STATUS, or it stores in an idle core
(R75, R163). -/
theorem hostWrite_cases (s : State) (addr v : Word) :
    s.hostWrite addr v = s.reject ∨ s.hostWrite addr v = s.acknowledge v ∨
      (s.busy = false ∧ ∃ l, locAt s.params addr = some l ∧ s.hostWrite addr v = s.writeLoc l v) := by
  unfold State.hostWrite
  split
  · exact .inl rfl
  · next l hl =>
    split
    · split
      · exact .inr (.inl rfl)
      · exact .inl rfl
    · next hb => exact .inr (.inr ⟨by simpa using hb, l, hl, rfl⟩)

/-- With no reset to come, a step is a step in which no reset is asserted. -/
theorem step_noReset {s : State} (hr : s.resets = []) : step s = stepNoReset s := by
  unfold step; split <;> simp_all

/-- Where no reset is asserted now, a step is a step without reset of the state in which the count of the
next reset has moved on. -/
theorem step_noResetNow {s : State} {later : List Nat} (h : s.NoResetNow later) :
    step s = stepNoReset { s with resets := later } := by
  rcases h with ⟨hr, rfl⟩ | ⟨n, rest, hr, rfl⟩
  · rw [step_noReset hr]; congr 1; rw [← hr]
  · unfold step; split <;> simp_all

/-- A step of an idle core is a turn of the host. -/
theorem step_idle {s : State} (hr : s.resets = []) (hp : s.phase = .idle) :
    step s = hostTurn s := by
  rw [step_noReset hr]; unfold stepNoReset; split <;> simp_all

/-- A step of a busy core that does not complete its command is a turn of the host. -/
theorem step_busy {s : State} {w : Word} {left : Nat} (hr : s.resets = [])
    (hp : s.phase = .busy w (left + 1)) : step s = hostTurn { s with phase := .busy w left } := by
  rw [step_noReset hr]; unfold stepNoReset; split <;> simp_all

/-- A step of a busy core with nothing of the latency left completes the held word. -/
theorem step_complete {s : State} {w : Word} (hr : s.resets = []) (hp : s.phase = .busy w 0) :
    step s = completeWord w s := by
  rw [step_noReset hr]; unfold stepNoReset; split <;> simp_all

/-- A run of any machine goes on from the next state. -/
theorem run_succ (M : Host.Core) {s t : M.State} (h : M.step s = .next t) (k : Nat) :
    M.run (k + 1) s = M.run k t := by
  rw [Host.Core.run, h]

/-- A run of this machine goes on from the next state. -/
theorem core_run_succ {s t : State} (h : step s = .next t) (k : Nat) :
    Sys2Proof.core.run (k + 1) s = Sys2Proof.core.run k t := run_succ Sys2Proof.core h k

/-- Everything a step can do: a reset, the completion of a command or of an illegal word, or a turn of the
host, in the state in which the count of the next reset has moved on. -/
theorem step_cases {s t : State} (h : step s = .next t) :
    (∃ rest, s.resets = 0 :: rest ∧ t = ({ s with resets := rest } : State).resetEvent) ∨
    ∃ resets, let s' : State := { s with resets := resets }
      (∃ w i, s.phase = .busy w 0 ∧ decode w = .ok i ∧ exec i s' = .next t) ∨
      (∃ w e, s.phase = .busy w 0 ∧ decode w = .error e ∧ t = s'.takeFailure .illegalCmd) ∨
      (s.phase = .idle ∧ hostTurn s' = .next t) ∨
      (∃ w left, s.phase = .busy w (left + 1) ∧
        hostTurn { s' with phase := .busy w left } = .next t) := by
  have go : ∀ s' : State, s'.phase = s.phase → stepNoReset s' = .next t →
      (∃ w i, s.phase = .busy w 0 ∧ decode w = .ok i ∧ exec i s' = .next t) ∨
      (∃ w e, s.phase = .busy w 0 ∧ decode w = .error e ∧ t = s'.takeFailure .illegalCmd) ∨
      (s.phase = .idle ∧ hostTurn s' = .next t) ∨
      (∃ w left, s.phase = .busy w (left + 1) ∧
        hostTurn { s' with phase := .busy w left } = .next t) := by
    intro s' hp hs
    unfold stepNoReset at hs
    split at hs
    · next hi => exact .inr (.inr (.inl ⟨hp ▸ hi, hs⟩))
    · next w hb =>
      unfold completeWord at hs
      split at hs
      · next i hd => exact .inl ⟨w, i, hp ▸ hb, hd, hs⟩
      · next e hd =>
        injection hs with hs
        exact .inr (.inl ⟨w, e, hp ▸ hb, hd, hs.symm⟩)
    · next w left hb => exact .inr (.inr (.inr ⟨w, left, hp ▸ hb, hs⟩))
  unfold step at h
  split at h
  · exact .inr ⟨s.resets, go s rfl h⟩
  · next rest hr => injection h with h; exact .inl ⟨rest, hr, h.symm⟩
  · next n rest hr => exact .inr ⟨n :: rest, go _ rfl h⟩

end Sys2Proof.Machine
end

