-- ==== Sys2Proof/Laws/Bus.lean ====
section
/-! SUPPORT. The address map in both directions, the lanes of a word, and what one lane of a host write
changes. -/

namespace Sys2Proof.Machine

/-! ### The address map -/

/-- BASE is a multiple of 2^27. -/
theorem busBase_toNat (p : Params) : (busBase p).toNat = p.baseIndex.toNat * 2^27 := by
  simp only [busBase]; rw [BitVec.toNat_append, Nat.shiftLeft_eq]; simp

/-- The offset of a mapped word is a word offset of the map. -/
theorem Loc.offset_lt (l : Loc) (p : Params) (h : ∀ b w, l = .buf b w → w < (b.capacity p + 3) / 4) : l.offset < 2^27 ∧ l.offset % 4 = 0 := by
  cases l with
  | reg r => cases r <;> decide
  | cnt s => simp only [Loc.offset]; omega
  | slistSym s => simp only [Loc.offset]; omega
  | slistLo s => simp only [Loc.offset]; omega
  | slistHi s => simp only [Loc.offset]; omega
  | node n w => simp only [Loc.offset]; omega
  | code s w => simp only [Loc.offset]; omega
  | buf b w =>
    have := h b w rfl
    have hc : b.capacity p ≤ 2^24 := by cases b <;> simp only [Buffer.capacity] <;> first | exact p.maxIn.le | exact p.maxPk.le | exact p.maxBits.le | exact p.maxDec.le
    simp only [Loc.offset]
    cases b <;> simp only [Buffer.base] <;> omega

/-- The offset of the address of a mapped word. -/
theorem busOffset_addr (l : Loc) (p : Params) (h : l.offset < 2^27) : busOffset p (l.addr p) = l.offset := by
  have hb := busBase_toNat p
  have := p.baseIndex.isLt
  simp only [busOffset, Loc.addr]
  rw [show busBase p + BitVec.ofNat 32 l.offset - busBase p = BitVec.ofNat 32 l.offset by
    rw [BitVec.add_comm, BitVec.add_sub_cancel]]
  simp
  omega

/-- The map finds the word at its own offset. -/
theorem locOf_offset (p : Params) (l : Loc) (h : ∀ b w, l = .buf b w → w < (b.capacity p + 3) / 4) : locOf p l.offset = some l := by
  have ⟨h1, h2⟩ := Loc.offset_lt l p h
  cases l with
  | reg r => cases r <;> rfl
  | cnt s =>
    obtain ⟨s, hs⟩ := s
    simp only [Loc.offset] at *
    unfold locOf
    rw [if_neg (by omega), if_neg (by omega), dif_pos (by omega)]
    simp
  | slistSym s =>
    obtain ⟨s, hs⟩ := s
    simp only [Loc.offset] at *
    unfold locOf
    rw [if_neg (by omega), if_neg (by omega), dif_neg (by omega), if_neg (by omega), dif_pos (by omega)]
    rw [show (2048 + 16 * s) % 16 / 4 = 0 by omega]
    simp [slistLoc]
  | slistLo s =>
    obtain ⟨s, hs⟩ := s
    simp only [Loc.offset] at *
    unfold locOf
    rw [if_neg (by omega), if_neg (by omega), dif_neg (by omega), if_neg (by omega), dif_pos (by omega)]
    rw [show (2052 + 16 * s) % 16 / 4 = 1 by omega]
    simp [slistLoc]; omega
  | slistHi s =>
    obtain ⟨s, hs⟩ := s
    simp only [Loc.offset] at *
    unfold locOf
    rw [if_neg (by omega), if_neg (by omega), dif_neg (by omega), if_neg (by omega), dif_pos (by omega)]
    rw [show (2056 + 16 * s) % 16 / 4 = 2 by omega]
    simp [slistLoc]; omega
  | node n w =>
    obtain ⟨n, hn⟩ := n; obtain ⟨w, hw⟩ := w
    simp only [Loc.offset] at *
    unfold locOf
    rw [if_neg (by omega), if_neg (by omega), dif_neg (by omega), if_neg (by omega), dif_neg (by omega), dif_pos (by omega)]
    simp; omega
  | code n w =>
    obtain ⟨n, hn⟩ := n; obtain ⟨w, hw⟩ := w
    simp only [Loc.offset] at *
    unfold locOf
    rw [if_neg (by omega), if_neg (by omega), dif_neg (by omega), if_neg (by omega), dif_neg (by omega), dif_neg (by omega), if_neg (by omega), dif_pos (by omega), dif_pos (by omega)]
    simp; omega
  | buf b w =>
    have hw := h b w rfl
    have hc : b.capacity p ≤ 2^24 := by cases b <;> simp only [Buffer.capacity] <;> first | exact p.maxIn.le | exact p.maxPk.le | exact p.maxBits.le | exact p.maxDec.le
    simp only [Loc.offset] at *
    have hb : b.base ≥ 0x3000 := by cases b <;> decide
    unfold locOf
    rw [if_neg (by omega), if_neg (by omega), dif_neg (by omega), if_neg (by omega), dif_neg (by omega), dif_neg (by omega), if_neg (by omega), dif_neg (by omega)]
    unfold bufferLoc
    have h3 : Buffer.ofWindow ((b.base + 4 * w) / 2^24) = some b ∧ (b.base + 4 * w) % 2^24 = 4 * w := by
      cases b <;> simp only [Buffer.base] at * 
      · rw [show (0x01000000 + 4 * w) / 2^24 = 1 by omega]; exact ⟨rfl, by omega⟩
      · rw [show (0x02000000 + 4 * w) / 2^24 = 2 by omega]; exact ⟨rfl, by omega⟩
      · rw [show (0x03000000 + 4 * w) / 2^24 = 3 by omega]; exact ⟨rfl, by omega⟩
      · rw [show (0x04000000 + 4 * w) / 2^24 = 4 by omega]; exact ⟨rfl, by omega⟩
    rw [h3.1, h3.2]
    rw [show 4 * w / 4 = w by omega]; exact if_pos (show w < b.words p from hw)

/-- The word that the map finds at an offset has that offset, and is in range. -/
theorem locOf_inv (p : Params) (off : Nat) (l : Loc) (h : locOf p off = some l) :
    l.offset = off ∧ ∀ b w, l = .buf b w → w < (b.capacity p + 3) / 4 := by
  unfold locOf at h
  split at h
  · cases h
  split at h
  · next h4 h5 =>
    simp only [ne_eq, not_not] at h4
    obtain ⟨k, rfl⟩ : ∃ k, off = 4 * k := ⟨off / 4, by omega⟩
    rw [show 4 * k / 4 = k by omega] at h
    have : k < 128 := by omega
    unfold HostReg.ofIndex at h
    split at h <;> simp at h <;> subst h <;> exact ⟨rfl, by simp⟩
  split at h
  · injection h with h; subst h; simp only [Loc.offset]; exact ⟨by omega, by simp⟩
  split at h
  · cases h
  split at h
  · unfold slistLoc at h
    split at h <;> first | (injection h with h; subst h; simp only [Loc.offset]; exact ⟨by omega, by simp⟩) | cases h
  split at h
  · injection h with h; subst h; simp only [Loc.offset]; exact ⟨by omega, by simp⟩
  split at h
  · cases h
  split at h
  · split at h
    · injection h with h; subst h; simp only [Loc.offset]; exact ⟨by omega, by simp⟩
    · cases h
  · unfold bufferLoc at h
    split at h
    · next b hb =>
      split at h
      · next hw =>
        injection h with h; subst h
        refine ⟨?_, ?_⟩
        · simp only [Loc.offset]
          unfold Buffer.ofWindow at hb
          split at hb <;> simp at hb <;> subst hb <;> simp only [Buffer.base] <;> omega
        · intro b' w' e; injection e with e1 e2; subst e1; subst e2; exact hw
      · cases h
    · cases h

/-- A misaligned address, and one outside the map, is no mapped word (R74). -/
theorem locAt_eq_none (p : Params) (addr : Word) (h : addr.toNat % 4 ≠ 0 ∨ 0x05000000 ≤ (addr - busBase p).toNat) : locAt p addr = none := by
  have hb := busBase_toNat p
  have := p.baseIndex.isLt
  have := addr.isLt
  unfold locAt locOf busOffset
  rcases h with h | h
  · rw [if_pos]
    rw [BitVec.toNat_sub]; omega
  · split
    · rfl
    rw [if_neg (by omega), dif_neg (by omega), if_neg (by omega), dif_neg (by omega), dif_neg (by omega), if_neg (by omega), dif_neg (by omega)]
    have h2 := (addr - busBase p).isLt
    unfold bufferLoc
    have : Buffer.ofWindow ((addr - busBase p).toNat / 2^24) = none := by
      have h3 : 5 ≤ (addr - busBase p).toNat / 2^24 := by omega
      generalize (addr - busBase p).toNat / 2^24 = k at h3
      unfold Buffer.ofWindow
      split <;> first | omega | rfl
    rw [this]

/-! ### Lanes -/

/-- The low half of two joined words. -/
theorem extract_append_low (h l : Word) :
    (h ++ l : BitVec 64).extractLsb' 0 32 = l := by
  apply BitVec.eq_of_toNat_eq
  show (BitVec.extractLsb' 0 32 (h ++ l : BitVec (32 + 32))).toNat = _
  rw [BitVec.extractLsb'_toNat, BitVec.toNat_append, ← Nat.shiftLeft_add_eq_or_of_lt l.isLt]
  have := l.isLt
  simp only [Nat.shiftRight_eq_div_pow, Nat.shiftLeft_eq]
  omega

/-- The high half of two joined words. -/
theorem extract_append_high (h l : Word) :
    (h ++ l : BitVec 64).extractLsb' 32 32 = h := by
  apply BitVec.eq_of_toNat_eq
  show (BitVec.extractLsb' 32 32 (h ++ l : BitVec (32 + 32))).toNat = _
  rw [BitVec.extractLsb'_toNat, BitVec.toNat_append, ← Nat.shiftLeft_add_eq_or_of_lt l.isLt]
  have := l.isLt
  have := h.isLt
  simp only [Nat.shiftRight_eq_div_pow, Nat.shiftLeft_eq]
  omega

/-- Four joined bytes as a number, the last one least significant. -/
theorem append_bytes_toNat (x y z u : Byte) :
    (x ++ y ++ z ++ u : BitVec 32).toNat =
      x.toNat * 2 ^ 24 + y.toNat * 2 ^ 16 + z.toNat * 2 ^ 8 + u.toNat := by
  show (x ++ y ++ z ++ u : BitVec (8 + 8 + 8 + 8)).toNat = _
  rw [BitVec.toNat_append, ← Nat.shiftLeft_add_eq_or_of_lt u.isLt, BitVec.toNat_append,
    ← Nat.shiftLeft_add_eq_or_of_lt z.isLt, BitVec.toNat_append,
    ← Nat.shiftLeft_add_eq_or_of_lt y.isLt]
  simp only [Nat.shiftLeft_eq]
  omega

/-- The lanes of four joined bytes, lane 0 the last one (R67). -/
theorem extract_append_bytes (x y z u : Byte) :
    (x ++ y ++ z ++ u : BitVec 32).extractLsb' 0 8 = u ∧
    (x ++ y ++ z ++ u : BitVec 32).extractLsb' 8 8 = z ∧
    (x ++ y ++ z ++ u : BitVec 32).extractLsb' 16 8 = y ∧
    (x ++ y ++ z ++ u : BitVec 32).extractLsb' 24 8 = x := by
  have := x.isLt
  have := y.isLt
  have := z.isLt
  have := u.isLt
  refine ⟨?_, ?_, ?_, ?_⟩ <;> apply BitVec.eq_of_toNat_eq <;>
    rw [BitVec.extractLsb'_toNat, append_bytes_toNat] <;>
    simp only [Nat.shiftRight_eq_div_pow] <;> omega

/-- The read of one byte of RAM after a lane is written. -/
theorem State.ram_setLane (s : State) (b : Buffer) (i : Nat) (v : Byte) (a : Nat) : (s.setLane b i v).ram a = if a = b.base + i ∧ i < b.capacity s.params then v else s.ram a := by
  unfold State.setLane
  split
  · next h =>
    simp only [State.ram, Memory.find_set]
    by_cases ha : a = b.base + i
    · simp [ha, h]
    · simp [ha]
  · next h => rw [if_neg (by tauto)]

/-- A written lane changes memory alone. -/
theorem State.setLane_eq (s : State) (b : Buffer) (i : Nat) (v : Byte) : ∃ m, (s.setLane b i v) = { s with mem := m} := by
  unfold State.setLane
  split
  · exact ⟨_, rfl⟩
  · exact ⟨s.mem, rfl⟩

/-! ### A host read of a mapped word -/

/-- A mapped word that is readable in this phase reads as its value, with no effect (R77, R81). -/
theorem hostRead_mapped {s : State} {addr : Word} {l : Loc} (hl : locAt s.params addr = some l)
    (h : s.busy = false ∨ l.readableWhenBusy = true) : s.hostRead addr = (s.readLoc l, s) := by
  unfold State.hostRead
  rw [hl]
  exact if_neg (by rcases h with h | h <;> simp [h])

/-! ### A host access in a running command -/

/-- A host write to a busy core changes neither the phase nor the resets to come. -/
theorem hostWrite_busy {s : State} (h : s.busy = true) (addr v : Word) :
    (s.hostWrite addr v).phase = s.phase ∧ (s.hostWrite addr v).resets = s.resets := by
  rcases hostWrite_cases s addr v with h1 | h1 | ⟨h1, _⟩
  · rw [h1]; exact ⟨rfl, rfl⟩
  · rw [h1]; exact ⟨rfl, rfl⟩
  · rw [h] at h1; cases h1

/-- A host read changes neither the phase nor the resets to come. -/
theorem hostRead_phase (s : State) (addr : Word) :
    (s.hostRead addr).2.phase = s.phase ∧ (s.hostRead addr).2.resets = s.resets := by
  rcases hostRead_cases s addr with h1 | h1 | h1 <;> rw [h1] <;> exact ⟨rfl, rfl⟩

end Sys2Proof.Machine
end

