-- ==== Sys2Proof/Laws/Packing.lean ====
section
/-! SUPPORT. Grouping bits into bytes and expanding bytes into bits: each undoes the other (R119, R125);
and the payload of PK said by its stream bits (R126). -/

namespace Sys2Proof.Machine

/-- The bits of a grouped byte are the grouped bits. -/
theorem byteBits_bitsValue (b0 b1 b2 b3 b4 b5 b6 b7 : Bool) :
    byteBits (BitVec.ofNat 8 (bitsValue [b0, b1, b2, b3, b4, b5, b6, b7])) =
      [b0, b1, b2, b3, b4, b5, b6, b7] := by
  revert b0 b1 b2 b3 b4 b5 b6 b7; decide

/-- Grouping a whole number of bytes makes as many bytes. -/
theorem groupBytes_length (l : List Bool) : (groupBytes l).length = l.length / 8 := by
  fun_induction groupBytes l with
  | case1 b0 b1 b2 b3 b4 b5 b6 b7 rest ih => simp only [List.length_cons, ih]; omega
  | case2 l h =>
    rcases l with _ | ⟨b0, _ | ⟨b1, _ | ⟨b2, _ | ⟨b3, _ | ⟨b4, _ | ⟨b5, _ | ⟨b6, _ | ⟨b7, r⟩⟩⟩⟩⟩⟩⟩⟩
    case cons.cons.cons.cons.cons.cons.cons.cons => exact absurd rfl (h b0 b1 b2 b3 b4 b5 b6 b7 r)
    all_goals simp

/-- Expanding grouped bits gives them back, where they make whole bytes. -/
theorem expandBytes_groupBytes (l : List Bool) (h : l.length % 8 = 0) :
    expandBytes (groupBytes l) = l := by
  fun_induction groupBytes l with
  | case1 b0 b1 b2 b3 b4 b5 b6 b7 rest ih =>
    simp only [List.length_cons] at h
    rw [expandBytes, List.flatMap_cons, byteBits_bitsValue]
    show _ ++ expandBytes (groupBytes rest) = _
    rw [ih (by omega)]; rfl
  | case2 l hl =>
    rcases l with _ | ⟨b0, _ | ⟨b1, _ | ⟨b2, _ | ⟨b3, _ | ⟨b4, _ | ⟨b5, _ | ⟨b6, _ | ⟨b7, r⟩⟩⟩⟩⟩⟩⟩⟩
    case cons.cons.cons.cons.cons.cons.cons.cons => exact absurd rfl (hl b0 b1 b2 b3 b4 b5 b6 b7 r)
    case nil => rfl
    all_goals simp at h

/-- A header and its payload make whole bytes (R120). -/
theorem header_length (b : List Bool) :
    (paddingHeader b.length ++ b).length = 8 * packedSize b.length := by
  simp only [paddingHeader, packedSize, List.length_append, List.length_replicate,
    List.length_singleton]
  omega

/-! ### The stream of PK -/

@[simp] theorem byteBits_length (b : Byte) : (byteBits b).length = 8 := by simp [byteBits]

theorem expandBytes_length (l : List Byte) : (expandBytes l).length = 8 * l.length := by
  induction l with
  | nil => rfl
  | cons b l ih =>
    rw [expandBytes, List.flatMap_cons, List.length_append, byteBits_length]
    show 8 + (expandBytes l).length = _
    rw [ih, List.length_cons]; omega

/-- Bit `k` of the expansion is bit 7 - (k mod 8) of byte k div 8 (R71, R125). -/
theorem getElem?_expandBytes (l : List Byte) (k : Nat) :
    (expandBytes l)[k]? = (l[k / 8]?).map fun b => b.getLsbD (7 - k % 8) := by
  induction l generalizing k with
  | nil => simp [expandBytes]
  | cons b l ih =>
    rw [expandBytes, List.flatMap_cons]
    show (byteBits b ++ expandBytes l)[k]? = _
    by_cases h : k < 8
    · rw [List.getElem?_append_left (by simpa using h), show k / 8 = 0 by omega]
      simp [byteBits, h, Nat.mod_eq_of_lt h]
    · rw [List.getElem?_append_right (by simp; omega), byteBits_length, ih,
        show k / 8 = (k - 8) / 8 + 1 by omega, show k % 8 = (k - 8) % 8 by omega]
      simp

/-- Stream bit `k` of PK[0..PK_LEN-1]. -/
theorem getElem?_expand_pk (s : State) {k : Nat} (h : k < 8 * s.pkLen.toNat) :
    (expandBytes (s.elems .pk s.pkLen.toNat))[k]? = some (s.streamBit k) := by
  rw [getElem?_expandBytes, List.getElem?_eq_getElem (by simp; omega), State.elems_getElem]
  rfl

/-- Dropping `p` bits of the expansion leaves the stream from `p` on. -/
theorem drop_expand_pk (s : State) (p : Nat) :
    (expandBytes (s.elems .pk s.pkLen.toNat)).drop p = s.streamFrom p := by
  apply List.ext_getElem?
  intro i
  rw [List.getElem?_drop]
  by_cases h : i < 8 * s.pkLen.toNat - p
  · rw [getElem?_expand_pk s (by omega)]
    simp [State.streamFrom, h]
  · rw [List.getElem?_eq_none (by rw [expandBytes_length]; simp; omega),
      List.getElem?_eq_none (by simp [State.streamFrom]; omega)]

/-- The payload is the stream from the stripped bits on (R126). -/
theorem payload_of_strips {s : State} {p : Nat} {fallback : Bool} (h : s.Strips p fallback) :
    s.payload = (s.streamFrom p, fallback) := by
  have len : (expandBytes (s.elems .pk s.pkLen.toNat)).length = 8 * s.pkLen.toNat := by
    rw [expandBytes_length, State.elems_length]
  have bit : ∀ k (hk : k < ((expandBytes (s.elems .pk s.pkLen.toNat)).take 8).length),
      ((expandBytes (s.elems .pk s.pkLen.toNat)).take 8)[k] = s.streamBit k := by
    intro k hk
    rw [List.length_take, len] at hk
    have := getElem?_expand_pk s (k := k) (by omega)
    rw [List.getElem_take]
    rw [List.getElem?_eq_getElem (by rw [len]; omega)] at this
    exact Option.some.inj this
  rw [State.payload, payloadOf]
  rcases h with ⟨m, h8, hB, hm, hlt, rfl, rfl⟩ | ⟨hno, rfl, rfl⟩
  · have hf : ((expandBytes (s.elems .pk s.pkLen.toNat)).take 8).findIdx? id = some m := by
      rw [List.findIdx?_eq_some_iff_getElem]
      have hml : m < ((expandBytes (s.elems .pk s.pkLen.toNat)).take 8).length := by
        rw [List.length_take, len]; omega
      refine ⟨hml, by rw [bit]; exact hm, fun j hj => ?_⟩
      rw [bit]; simpa using hlt j hj
    rw [hf]; simp only; rw [drop_expand_pk]
  · have hf : ((expandBytes (s.elems .pk s.pkLen.toNat)).take 8).findIdx? id = none := by
      rw [List.findIdx?_eq_none_iff]
      intro x hx
      obtain ⟨k, hk, rfl⟩ := List.getElem_of_mem hx
      rw [bit]
      rw [List.length_take, len] at hk
      simpa using hno k (by omega) (by omega)
    rw [hf]; simp only; rw [drop_expand_pk, len]

@[simp] theorem State.streamFrom_length (s : State) (p : Nat) :
    (s.streamFrom p).length = 8 * s.pkLen.toNat - p := by simp [State.streamFrom]

end Sys2Proof.Machine
end

