-- ==== Sys2Proof/Laws/PerInstr.lean ====
section
/-! SUPPORT. Statements made for each command as syntax. -/

namespace Sys2Proof.Laws.WordForm

/-- A command is well formed, its word passes both checks of a raw command word, and its word decodes to it
(R86, R88, R90). -/
def Statement (i : Instr) : Prop :=
  i.wellFormed = true ∧ wellFormedWord (Sys2Proof.encode i) = true ∧
    Sys2Proof.decode (Sys2Proof.encode i) = .ok i

theorem nop : Statement .nop := ⟨rfl, by decide, by decide⟩
theorem clear : Statement .clear := ⟨rfl, by decide, by decide⟩
theorem count : Statement .count := ⟨rfl, by decide, by decide⟩
theorem sort : Statement .sort := ⟨rfl, by decide, by decide⟩
theorem buildTree : Statement .buildTree := ⟨rfl, by decide, by decide⟩
theorem buildCodes : Statement .buildCodes := ⟨rfl, by decide, by decide⟩
theorem encode : Statement .encode := ⟨rfl, by decide, by decide⟩
theorem pack : Statement .pack := ⟨rfl, by decide, by decide⟩
theorem unpack : Statement .unpack := ⟨rfl, by decide, by decide⟩
theorem decode : Statement .decode := ⟨rfl, by decide, by decide⟩
theorem encodeAll : Statement .encodeAll := ⟨rfl, by decide, by decide⟩
theorem build : Statement .build := ⟨rfl, by decide, by decide⟩

end Sys2Proof.Laws.WordForm
end

