-- ==== Sys2Proof/Tests/Slice0.lean ====
section
/-! SUPPORT. Tests of this model against 95_test_vectors.md and the tables of the spec, and a witness for the
hypotheses of every obligation that has some. -/

set_option Elab.async false

namespace Sys2Proof.Tests

open Sys2Proof Sys2Proof.Machine

/-! ### Decoding and well-formedness (R86 to R90) -/

/-- The twelve words of R88, bit by bit: RSVD is 24 zeros, then the OPCODE. -/
theorem test_decode_nop : Sys2Proof.decode 0b00000000000000000000000000000000 = .ok .nop := by decide
theorem test_decode_clear : Sys2Proof.decode 0b00000000000000000000000000000001 = .ok .clear := by decide
theorem test_decode_count : Sys2Proof.decode 0b00000000000000000000000000010000 = .ok .count := by decide
theorem test_decode_sort : Sys2Proof.decode 0b00000000000000000000000000010001 = .ok .sort := by decide
theorem test_decode_buildTree :
    Sys2Proof.decode 0b00000000000000000000000000010010 = .ok .buildTree := by decide
theorem test_decode_buildCodes :
    Sys2Proof.decode 0b00000000000000000000000000010011 = .ok .buildCodes := by decide
theorem test_decode_encode : Sys2Proof.decode 0b00000000000000000000000000100000 = .ok .encode := by decide
theorem test_decode_pack : Sys2Proof.decode 0b00000000000000000000000000100001 = .ok .pack := by decide
theorem test_decode_unpack : Sys2Proof.decode 0b00000000000000000000000000100010 = .ok .unpack := by decide
theorem test_decode_decode : Sys2Proof.decode 0b00000000000000000000000000100011 = .ok .decode := by decide
theorem test_decode_encodeAll :
    Sys2Proof.decode 0b00000000000000000000000000110000 = .ok .encodeAll := by decide
theorem test_decode_build : Sys2Proof.decode 0b00000000000000000000000000110001 = .ok .build := by decide

/-- V-CTL-4 and V-CTL-5: an unknown opcode and a set reserved bit are rejected by name. -/
theorem test_decode_illegal : Sys2Proof.decode 0x00000002 = .error (.unknownOpcode 0x02) ∧
    Sys2Proof.decode 0x00000110 = .error (.reservedBits 0x110) := by decide

/-- The table's numbering: the word is its own 32 bits, and bits above `nbits` are zero. -/
theorem test_decodeTableWord : decodeTableWord 32 0x31 = some .build ∧
    decodeTableWord 8 0x31 = some .build ∧ decodeTableWord 32 0x110 = none := by decide

/-- Check 1 refuses a word with a reserved bit set, whatever its opcode. -/
theorem test_reservedClear_refuses : reservedClear 0x00000110 = false ∧
    reservedClear 0x80000000 = false ∧ wellFormedWord 0x00000110 = false := by decide

/-- Check 2 refuses an opcode that is not in the table. -/
theorem test_opcodeDefined_refuses : opcodeDefined 0x00000002 = false ∧
    opcodeDefined 0x000000FF = false ∧ wellFormedWord 0x00000032 = false := by decide

/-! ### States for the tests -/

/-- A capacity for a test. -/
def cap (n : Nat) (h : 1 ≤ n ∧ n ≤ 2 ^ 24 := by decide) : Capacity := ⟨n, h.1, h.2⟩

/-- The capacities of the tests: IN 16, PK 5, BITS 22, DEC 16. -/
def smallParams : Params := ⟨0, cap 16, cap 5, cap 22, cap 16⟩

/-- The state after a reset with tables of zeros in place of the free values. -/
def base : State :=
  { State.resetWith smallParams 0 with
    slist := Vector.replicate 128 ⟨0, 0⟩
    node := Vector.replicate 255 ⟨false, 0, 0, 0, 0⟩
    code := Vector.replicate 128 ⟨0, 0⟩ }

/-- IN and IN_LEN hold the given bytes. -/
def withInput (s : State) (l : List Byte) : State :=
  { s.setElems .inp l with inLen := BitVec.ofNat 32 l.length }

/-- PK and PK_LEN hold the given bytes. -/
def withPacked (s : State) (l : List Byte) : State :=
  { s.setElems .pk l with pkLen := BitVec.ofNat 32 l.length }

/-- BITS and BIT_LEN hold the given bytes. -/
def withBits (s : State) (l : List Byte) : State :=
  { s.setElems .bits l with bitLen := BitVec.ofNat 32 l.length }

/-- SLIST and SLIST_LEN hold the given entries. -/
def withList (s : State) (l : List FreqEntry) : State :=
  { s with slist := overlay s.slist l, slistLen := BitVec.ofNat 32 l.length }

/-- PK cut to one byte. -/
def withMaxPkOne (s : State) : State :=
  { s with params := { s.params with maxPk := cap 1 } }

/-- A property of the next state. -/
def onNext (o : Host.Outcome State Fault Refusal) (f : State → Bool) : Bool :=
  match o with
  | .next t => f t
  | .fault _ => false
  | .refused _ => false

/-- "aaaaaabccd" of V-SRC-5. -/
def srcInput : State :=
  withInput base [0x61, 0x61, 0x61, 0x61, 0x61, 0x61, 0x62, 0x63, 0x63, 0x64]

/-- The list of V-SRC-5. -/
def srcList : State :=
  withList base [⟨0x62, 0x3FB999999999999A⟩, ⟨0x64, 0x3FB999999999999A⟩,
    ⟨0x63, 0x3FC999999999999A⟩, ⟨0x61, 0x3FE3333333333333⟩]

/-- The tree of V-SRC-5, with the words its table gives. -/
def srcTree : State :=
  { base with
    node := overlay base.node [⟨true, 0x62, 0x3FB999999999999A, 0, 0⟩,
      ⟨true, 0x64, 0x3FB999999999999A, 0, 0⟩, ⟨true, 0x63, 0x3FC999999999999A, 0, 0⟩,
      ⟨true, 0x61, 0x3FE3333333333333, 0, 0⟩, ⟨false, 0, 0x3FC999999999999A, 0, 1⟩,
      ⟨false, 0, 0x3FD999999999999A, 2, 4⟩, ⟨false, 0, 0x3FF0000000000000, 5, 3⟩]
    nodeCnt := 7
    root := 6
    status := { base.status with treeValid := true } }

/-- The tree and the codes of V-SRC-5: a = 1, b = 010, c = 00, d = 011. -/
def srcCodes : State :=
  { srcTree with
    code := (((base.code.set 0x61 ⟨1, 1⟩).set 0x62 ⟨3, 2⟩).set 0x63 ⟨2, 0⟩).set 0x64 ⟨3, 3⟩
    status := { srcTree.status with codesValid := true } }

/-! ### The commands -/

/-- V-CTL-3: NOP from reset, through a step. -/
theorem test_nop : onNext (step (State.reset.withFetchWord 32 0x00))
    (fun t => t.statusWord == 0x00000002) = true := by decide +kernel

/-- V-CTL-9: CLEAR zeroes the lengths, keeps SLIST and PK, and leaves only DONE. -/
theorem test_clear : onNext (step ((withPacked srcCodes [0x01, 0xFD, 0x03]).withFetchWord 32 0x01))
    (fun t => t.statusWord == 0x00000002 && t.pkLen == 0 && t.nodeCnt == 0 && t.root == 0 &&
      t.elems .pk 3 == [0x01, 0xFD, 0x03] && t.readLoc (.node 6 1) == 0x00000305) = true := by
  decide +kernel

/-- V-CNT-1: the counts of "aaaaaabccd". -/
theorem test_count : onNext (step (srcInput.withFetchWord 32 0x10))
    (fun t => t.statusWord == 0x00000002 && t.total == 10 && t.readLoc (.cnt 0x61) == 6 &&
      t.readLoc (.cnt 0x62) == 1 && t.readLoc (.cnt 0x63) == 2 && t.readLoc (.cnt 0x64) == 1 &&
      t.readLoc (.cnt 0x60) == 0) = true := by decide +kernel

/-- V-CNT-3: a byte with bit 7 set fails with INVALID_SYMBOL and keeps CNT and TOTAL. -/
theorem test_count_invalid : onNext (exec .count (withInput { base with total := 10 } [0x61, 0x80, 0x62]))
    (fun t => t.statusWord == 0x00000036 && t.total == 10 && t.readLoc (.cnt 0x61) == 0) = true := by
  decide +kernel

/-- V-SORT-6: binary64 probabilities of counts 1, 4, 4, 5. -/
theorem test_sort : onNext (step (({ base with
      cnt := (((base.cnt.set 0x61 1).set 0x62 4).set 0x63 4).set 0x64 5
      total := 14 } : State).withFetchWord 32 0x11))
    (fun t => t.slistLen == 4 && t.slist.toList.take 4 == [⟨0x61, 0x3FB2492492492492⟩,
      ⟨0x62, 0x3FD2492492492492⟩, ⟨0x63, 0x3FD2492492492492⟩, ⟨0x64, 0x3FD6DB6DB6DB6DB7⟩])
    = true := by decide +kernel

/-- V-SORT-3: the dummy of symbol 127 wraps to 0 and comes first. -/
theorem test_sort_degenerate : onNext (exec .sort { base with cnt := base.cnt.set 0x7F 3, total := 3 })
    (fun t => t.slistLen == 2 && t.status.degenerate &&
      t.slist.toList.take 2 == [⟨0x00, 0⟩, ⟨0x7F, 0x3FF0000000000000⟩]) = true := by decide +kernel

/-- V-SRC-5: the merge of the source's own example. -/
theorem test_buildTree : onNext (step (srcList.withFetchWord 32 0x12))
    (fun t => t.node == srcTree.node && t.nodeCnt == 7 && t.root == 6 &&
      t.statusWord == 0x00001002) = true := by decide +kernel

/-- V-TREE-15: -0.0 is refused with BAD_LIST. -/
theorem test_buildTree_negativeZero :
    onNext (exec .buildTree (withList base [⟨0x61, 0x8000000000000000⟩, ⟨0x62, 0⟩]))
    (fun t => t.statusWord == 0x00000066 && t.nodeCnt == 0) = true := by decide +kernel

/-- V-CODE-1: the code words of V-SRC-5. -/
theorem test_buildCodes : onNext (step (srcTree.withFetchWord 32 0x13))
    (fun t => t.statusWord == 0x00003002 && t.code == srcCodes.code) = true := by decide +kernel

/-- V-CODE-2: no tree after reset. -/
theorem test_buildCodes_noTree : onNext (step (State.reset.withFetchWord 32 0x13))
    (fun t => t.statusWord == 0x00000076) = true := by decide +kernel

/-- V-ENC-1: "aaaaaabccd" packs to 01 FD 03. -/
theorem test_encode : onNext (step ((withInput srcCodes (srcInput.elems .inp 10)).withFetchWord 32 0x20))
    (fun t => t.elems .pk 3 == [0x01, 0xFD, 0x03] && t.pkLen == 3 && t.bitCnt == 16) = true := by
  decide +kernel

/-- V-ENC-5 with the table of V-SRC-5: index 0 fails with NO_CODE before index 1 is looked at. -/
theorem test_encode_lowestIndex : onNext (exec .encode (withInput srcCodes [0x65, 0x80]))
    (fun t => t.statusWord == 0x00003096 && t.pkLen == 0) = true := by decide +kernel

/-- V-PACK-9: "101010101" packs to 03 55. -/
theorem test_pack : onNext (step ((withBits base
      [0x31, 0x30, 0x31, 0x30, 0x31, 0x30, 0x31, 0x30, 0x31]).withFetchWord 32 0x21))
    (fun t => t.elems .pk 2 == [0x03, 0x55] && t.pkLen == 2 && t.bitCnt == 9) = true := by
  decide +kernel

/-- V-PACK-11: a byte that is no bit character. -/
theorem test_pack_invalid : onNext (exec .pack (withBits base [0x30, 0x31, 0x32, 0x30]))
    (fun t => t.statusWord == 0x00000046 && t.pkLen == 0) = true := by decide +kernel

/-- V-UNP-2: without a marker the first byte is stripped. -/
theorem test_unpack_fallback : onNext (step ((withPacked base [0x00, 0xAB]).withFetchWord 32 0x22))
    (fun t => t.statusWord == 0x00000402 && t.bitLen == 8 &&
      t.elems .bits 8 == [0x31, 0x30, 0x31, 0x30, 0x31, 0x30, 0x31, 0x31]) = true := by decide +kernel

/-- V-UNP-6: a marker in the first bit. -/
theorem test_unpack : onNext (exec .unpack (withPacked base [0xFF]))
    (fun t => t.statusWord == 0x00000002 && t.bitLen == 7 && t.bitCnt == 7 &&
      t.elems .bits 7 == List.replicate 7 0x31) = true := by decide +kernel

/-- V-DEC-5: "aaaaaa" and a partial code word. -/
theorem test_decode_trailing : onNext (step ((withPacked srcTree [0x01, 0xFD]).withFetchWord 32 0x23))
    (fun t => t.decLen == 6 && t.bitCnt == 8 && t.status.trailing &&
      t.elems .dec 6 == List.replicate 6 0x61) = true := by decide +kernel

/-- V-DEC-9: an empty payload needs no tree. -/
theorem test_decode_empty : onNext (exec .decode base)
    (fun t => t.decLen == 0 && t.status.padFallback && !t.status.trailing && !t.status.err)
    = true := by decide +kernel

/-- V-SRC-5: ENCODE_ALL of "aaaaaabccd". -/
theorem test_encodeAll : onNext (step (srcInput.withFetchWord 32 0x30))
    (fun t => t.statusWord == 0x00003002 && t.elems .pk 3 == [0x01, 0xFD, 0x03] && t.pkLen == 3 &&
      t.node == srcTree.node && t.code == srcCodes.code && t.total == 10) = true := by decide +kernel

/-- V-ENC-9: the stages before a failing ENCODE have committed. -/
theorem test_encodeAll_overflow :
    onNext (exec .encodeAll (withMaxPkOne (withInput base [0x61, 0x62, 0x63, 0x64])))
    (fun t => t.statusWord == 0x000030A6 && t.total == 4 && t.root == 6 && t.pkLen == 0 &&
      t.readLoc (.cnt 0x64) == 1 && t.readLoc (.code 0x64 1) == 3) = true := by decide +kernel

/-- V-TREE-8: BUILD keeps a list in the order the host wrote it. -/
theorem test_build : onNext (step ((withList base [⟨0x61, 0x3FE3333333333333⟩,
      ⟨0x62, 0x3FB999999999999A⟩, ⟨0x63, 0x3FC999999999999A⟩,
      ⟨0x64, 0x3FB999999999999A⟩]).withFetchWord 32 0x31))
    (fun t => t.statusWord == 0x00003002 && t.root == 6 &&
      t.readLoc (.node 5 3) == 0x3FD33333 && t.readLoc (.node 5 2) == 0x33333334 &&
      t.readLoc (.code 0x63 0) == 2 && t.readLoc (.code 0x63 1) == 2) = true := by decide +kernel

/-- V-TREE-10 through BUILD: the failure of its first stage is its own. -/
theorem test_build_tooSmall : onNext (step (State.reset.withFetchWord 32 0x31))
    (fun t => t.statusWord == 0x00000056) = true := by decide +kernel

/-- V-CTL-5: a word with a reserved bit set completes with ILLEGAL_CMD. -/
theorem test_illegal : onNext (step (State.reset.withFetchWord 32 0x110))
    (fun t => t.statusWord == 0x00000016) = true := by decide +kernel

/-- R89: an illegal word has no latency, whatever the environment has in store for the next command. -/
theorem test_illegal_atOnce :
    onNext (step { base with latencies := [3, 5], host := [.write 0x0000000C 4 0x00000002] })
    (fun t => t.phase == .busy 0x00000002 0 && t.latencies == [3, 5]) = true ∧
    onNext (step { base with latencies := [3, 5], host := [.write 0x0000000C 4 0x00000010] })
    (fun t => t.phase == .busy 0x00000010 3 && t.latencies == [5]) = true := by decide +kernel

/-! ### The bus -/

/-- V-CTL-1, V-CTL-10, V-CTL-11, V-CTL-12: ID, an unmapped and a misaligned address, and the first word past
IN's capacity. -/
theorem test_bus_read : State.reset.hostRead 0x00000000 = (0x48554646, State.reset) ∧
    (State.reset.hostRead 0x00000100).2.status.accessErr = true ∧
    (State.reset.hostRead 0x00000013).1 = 0 ∧ locAt Params.standard 0x01010000 = none ∧
    locAt Params.standard 0x0100FFFC = some (.buf .inp 16383) := by
  refine ⟨rfl, rfl, rfl, ?_, ?_⟩ <;> decide +kernel

/-- V-CTL-19: the reserved bits of an SLIST symbol word are ignored. -/
theorem test_bus_slist : (base.hostWrite 0x00000800 0xFFFFFFFF).readLoc (.slistSym 0) = 0x0000007F := by
  decide +kernel

/-- V-CTL-16: writes during BUSY are dropped. -/
theorem test_bus_busy : ((base.start 0x10 3).hostWrite 0x00000014 5).inLen = 0 ∧
    ((base.start 0x10 3).hostWrite 0x0000000C 0).phase = .busy 0x10 3 ∧
    ((base.start 0x10 3).hostWrite 0x00000014 5).status.accessErr = true := by decide +kernel

/-! ### Witnesses: concrete states and operands that meet the hypotheses of the obligations -/

/-- ReservedWordsFail, at the ends of each of its ranges. -/
theorem witness_ReservedWordsFail : ∀ w ∈ ([0x02, 0x0F, 0x14, 0x1F, 0x24, 0x2F, 0x32, 0xFF, 0x100,
      0xFFFFFFFF] : List Word),
    (base.start w 0).phase = .busy w 0 ∧ (base.start w 0).NoResetNow [] ∧
    (0x100 ≤ w.toNat ∨ (0x02 ≤ w.toNat ∧ w.toNat ≤ 0x0F) ∨ (0x14 ≤ w.toNat ∧ w.toNat ≤ 0x1F) ∨
      (0x24 ≤ w.toNat ∧ w.toNat ≤ 0x2F) ∨ (0x32 ≤ w.toNat ∧ w.toNat ≤ 0xFF)) := by
  intro w hw
  refine ⟨rfl, .inl ⟨rfl, rfl⟩, ?_⟩
  fin_cases hw <;> decide

/-- StepRunsTheDecodedCommand: a command to complete, without and with a reset to come. -/
theorem witness_StepRunsTheDecodedCommand :
    (base.start 0x10 0).phase = .busy 0x10 0 ∧ Sys2Proof.decode 0x10 = .ok .count ∧
    (base.start 0x10 0).NoResetNow [] ∧
    ({ base.start 0x10 0 with resets := [1, 4] } : State).NoResetNow [0, 4] :=
  ⟨rfl, by decide, .inl ⟨rfl, rfl⟩, .inr ⟨0, [4], rfl, rfl⟩⟩

/-- StepRunsTheDecodedCommand: the turns of an idle and of a busy core. -/
theorem witness_StepRunsTheDecodedCommand_turn :
    (base.phase = .idle ∧ base = { base with resets := [] } ∧ base.host = [] ∧ base.busy = false ∧
      base.irq = false) ∧
    (base.start 0x10 1).phase = .busy 0x10 (0 + 1) ∧ (base.start 0x10 1).busy = true ∧
    ({ base with ctrl := ⟨true, false⟩, status := { base.status with done := true } } : State).irq =
      true := by decide +kernel

/-- CmdWriteStartsTheCommand: a legal and an illegal word. -/
theorem witness_CmdWriteStartsTheCommand :
    (∀ w : Word,
      let s : State := { base with host := [.write (busBase base.params + 0x00C) 4 w, .wait] }
      s.phase = .idle ∧ s.NoResetNow [] ∧
      s.host = .write (busBase s.params + 0x00C) 4 w :: [.wait]) ∧
    Sys2Proof.decode 0x30 = .ok .encodeAll ∧ Sys2Proof.decode 0x110 = .error (.reservedBits 0x110) :=
  ⟨fun _ => ⟨rfl, .inl ⟨rfl, rfl⟩, rfl⟩, by decide, by decide⟩

theorem witness_EveryCommandCompletes :
    let s : State := { base.start 0x31 2 with host := [.waitIrq, .read 0x10 4, .write 0x14 4 7] }
    s.phase = .busy 0x31 2 ∧ s.resets = [] ∧ s.host.all HostOp.wordWide = true := by decide +kernel

theorem witness_BusyTurnsKeepTheOperands :
    let s : State := { base.start 0x31 1 with host := [.write 0x14 4 7] }
    s.phase = .busy 0x31 (0 + 1) ∧ s.NoResetNow [] ∧ ∃ t, step s = .next t :=
  ⟨rfl, .inl ⟨rfl, rfl⟩, _, rfl⟩

theorem witness_EveryStepGoesOn :
    ∀ op rest, ({ base with host := [.read 0x13 4, .waitIrq] } : State).host = op :: rest →
      op.safe = true := by
  intro op rest h; injection h with h _; subst h; rfl

theorem witness_ResetAbandonsTheCommand :
    ({ base.start 0x30 5 with resets := [0, 3] } : State).resets = 0 :: [3] := rfl

theorem witness_InterruptLine : (0x0000000E : Word).getLsbD 1 = true ∧
    (0x0000000E : Word).getLsbD 2 = true ∧ (0x0000000E : Word).getLsbD 3 = true ∧
    base.phase = .idle ∧ base.status.accessErr = false := by decide

/-- UnmappedAccessesAreRejected: each alternative at a boundary. -/
theorem witness_UnmappedAccessesAreRejected :
    (0x00000013 : Word).toNat % 4 ≠ 0 ∧
    0x05000000 ≤ ((0x05000000 : Word) - busBase base.params).toNat ∧
    locAt base.params 0x00000038 = none ∧ locAt base.params 0x0000080C = none ∧
    locAt base.params 0x01000010 = none := by decide +kernel

/-- ReadOnlyLocationsRejectWrites: one location for each alternative, the last of its kind. -/
theorem witness_ReadOnlyLocationsRejectWrites :
    locAt base.params 0x00000000 = some (.reg .id) ∧ locAt base.params 0x00000034 = some (.reg .bitCnt) ∧
    locAt base.params 0x000003FC = some (.cnt 127) ∧ locAt base.params 0x00001FEC = some (.node 254 3) ∧
    locAt base.params 0x00002FF0 = some (.code 127 4) ∧
    locAt base.params 0x0400000C = some (.buf .dec 3) := by decide +kernel

theorem witness_WritesDuringBusyAreDropped : (base.start 0x10 3).busy = true ∧
    (0x010 : Word) = busBase (base.start 0x10 3).params + 0x010 ∧
    (0x014 : Word) ≠ busBase (base.start 0x10 3).params + 0x010 := by decide +kernel

theorem witness_ReadsHaveNoOtherEffect : locAt base.params 0x000003FC = some (.cnt 127) ∧
    base.busy = false ∧ locAt (base.start 0x10 3).params 0x00000010 = some (.reg .status) ∧
    (base.start 0x10 3).busy = true ∧
    .cnt 127 ∉ ([.reg .id, .reg .version, .reg .ctrl, .reg .cmd, .reg .status] : List Loc) := by
  decide +kernel

theorem witness_RegisterWritesReadBack : base.phase = .idle := rfl

theorem witness_SlistWordsAreWrittenAlone : srcList.phase = .idle ∧
    locAt srcList.params ((Loc.slistHi 127).addr srcList.params) = some (.slistHi 127) := by
  decide +kernel

/-- BufferWordsAreLittleEndian, at PK's word that is cut by its capacity of 5. -/
theorem witness_BufferWordsAreLittleEndian : base.phase = .idle ∧ Buffer.pk ≠ .dec ∧
    1 < (Buffer.pk.capacity base.params + 3) / 4 ∧ 3 < 4 ∧
    4 * 1 + 0 < Buffer.pk.capacity base.params ∧ ¬ 4 * 1 + 1 < Buffer.pk.capacity base.params := by
  decide +kernel

/-! #### COUNT and SORT -/

theorem witness_CountCountsTheInput :
    srcInput.inLen.toNat ≤ srcInput.params.maxIn.size ∧ srcInput.InputLegal := by
  unfold State.InputLegal; decide +kernel

/-- An empty input is legal too. -/
theorem witness_CountCountsTheInput_empty :
    base.inLen.toNat ≤ base.params.maxIn.size ∧ base.InputLegal := by
  unfold State.InputLegal; decide +kernel

theorem witness_CountFails :
    base.params.maxIn.size < ({ base with inLen := 17 } : State).inLen.toNat ∧
    (withInput base [0x61, 0x80]).inLen.toNat ≤ (withInput base [0x61, 0x80]).params.maxIn.size ∧
    ¬ (withInput base [0x61, 0x80]).InputLegal := by
  unfold State.InputLegal; decide +kernel

theorem witness_SortOfNothing : base.total = 0 := rfl

theorem witness_SortOfOneSymbol :
    let s : State := { base with cnt := base.cnt.set 127 3, total := 3 }
    s.total ≠ 0 ∧ s.cnt[(127 : Fin 128)] = s.total ∧
      ∀ y : Fin 128, y ≠ 127 → s.cnt[y] = 0 := by decide +kernel

theorem witness_SortOrdersTheEntries :
    let s : State := { base with cnt := (base.cnt.set 0 1).set 127 1, total := 2 }
    s.total ≠ 0 ∧ (0 : Fin 128) ≠ 127 ∧ s.cnt[(0 : Fin 128)] ≠ 0 ∧ s.cnt[(127 : Fin 128)] ≠ 0 := by
  decide +kernel

/-! #### Binary64 -/

/-- 0.1, 0.2 and 0.3, and the greatest integer that u2f takes. -/
theorem witness_AdditionRoundsToNearestEven : 2 ^ 53 - 1 < 2 ^ 53 ∧
    f64Sign 0x3FB999999999999A = false ∧ f64Sign 0x3FC999999999999A = false ∧
    f64Sign 0x3FD3333333333333 = false ∧ f64Exp 0x3FB999999999999A < 0x7FF ∧
    f64Exp 0x3FC999999999999A < 0x7FF ∧ f64Exp 0x3FD3333333333333 < 0x7FF ∧
    f64Units 0x3FB999999999999A + f64Units 0x3FC999999999999A < (2 ^ 54 - 1) * 2 ^ 2044 := by
  decide +kernel

/-- An exact sum just at the bound, the greatest finite value and half its last place, and an infinite
operand. -/
theorem witness_AdditionRoundsToNearestEven_overflow :
    f64Sign 0x7FEFFFFFFFFFFFFF = false ∧ f64Sign 0x7C90000000000000 = false ∧
    f64Exp 0x7FEFFFFFFFFFFFFF < 0x7FF ∧ f64Exp 0x7C90000000000000 < 0x7FF ∧
    f64Units 0x7FEFFFFFFFFFFFFF + f64Units 0x7C90000000000000 = (2 ^ 54 - 1) * 2 ^ 2044 ∧
    f64Sign 0x7FF0000000000000 = false ∧ f64IsNaN 0x7FF0000000000000 = false := by decide +kernel

/-- The sums on both sides of that bound, by IEEE 754: a tie goes to the even successor, which is
infinity. -/
theorem test_add_overflow : f64Add 0x7FEFFFFFFFFFFFFF 0x7C90000000000000 = 0x7FF0000000000000 ∧
    f64Add 0x7FEFFFFFFFFFFFFF 0x7C8FFFFFFFFFFFFF = 0x7FEFFFFFFFFFFFFF ∧
    f64Add 0x7FF0000000000000 0x3FF0000000000000 = 0x7FF0000000000000 := by decide +kernel

/-- An exact tie: 1 + 2^-53 lies midway between 1 and its successor. -/
theorem witness_AdditionRoundsToNearestEven_tie :
    |(f64Units (f64Add 0x3FF0000000000000 0x3CA0000000000000) : Int) -
        (f64Units 0x3FF0000000000000 + f64Units 0x3CA0000000000000)| =
      |(f64Units 0x3FF0000000000001 : Int) -
        (f64Units 0x3FF0000000000000 + f64Units 0x3CA0000000000000)| ∧
    (0x3FF0000000000001 : Pattern) ≠ f64Add 0x3FF0000000000000 0x3CA0000000000000 := by decide +kernel

theorem witness_DivisionRoundsToNearestEven : 0 < 1 ∧ 0 < 10 ∧ 1 < 2 ^ 53 ∧ 10 < 2 ^ 53 ∧
    f64Sign 0x3FB999999999999A = false ∧ f64Exp 0x3FB999999999999A < 0x7FF := by decide +kernel

theorem witness_ComparisonIsUnsigned : f64Sign 0x0000000000000000 = false ∧
    f64Sign 0x7FF0000000000000 = false ∧ f64IsNaN 0x0000000000000000 = false ∧
    f64IsNaN 0x7FF0000000000000 = false := by decide +kernel

theorem witness_ProbabilityGrowsWithTheCount :
    0 < 1 ∧ 1 < 2 ^ 24 ∧ 2 ^ 24 ≤ 2 ^ 24 ∧ 2 ^ 24 ≤ 2 ^ 24 := by decide

/-! #### BUILD_TREE and BUILD_CODES -/

/-- The list of V-SRC-5 is accepted (BuildTreeChecksTheList, BuildTreeMakesTheArena,
BuildTreeMergesTwoQueues, BuildTreeGivesAFullTree, BuildRebuildsTreeAndCodes). -/
theorem witness_ListAccepted : srcList.ListAccepted := by
  refine ⟨?_, ?_, ?_, ?_⟩ <;> decide +kernel

/-- The lists that BUILD_TREE and BUILD refuse: too short, too long, a negative zero, a repeated symbol. -/
theorem witness_BuildTreeChecksTheList :
    ({ base with slistLen := 1 } : State).slistLen.toNat < 2 ∧
    (2 ≤ ({ base with slistLen := 129 } : State).slistLen.toNat ∧
      ¬ ({ base with slistLen := 129 } : State).ListAccepted) ∧
    (2 ≤ (withList base [⟨1, 0x8000000000000000⟩, ⟨2, 0⟩]).slistLen.toNat ∧
      ¬ (withList base [⟨1, 0x8000000000000000⟩, ⟨2, 0⟩]).ListAccepted) ∧
    (2 ≤ (withList base [⟨1, 0⟩, ⟨1, 0⟩]).slistLen.toNat ∧
      ¬ (withList base [⟨1, 0⟩, ⟨1, 0⟩]).ListAccepted) := by
  refine ⟨by decide +kernel, ⟨by decide +kernel, fun h => ?_⟩, ⟨by decide +kernel, fun h => ?_⟩,
    ⟨by decide +kernel, fun h => ?_⟩⟩
  · exact absurd h.le_max (by decide +kernel)
  · exact absurd (h.probs 0 (by decide +kernel)).1 (by decide +kernel)
  · exact absurd (h.distinct 0 1 (by decide +kernel) (by decide +kernel) (by decide +kernel)) (by decide)

theorem witness_BuildCodesNeedsATree : base.status.treeValid = false := rfl

/-- The tree of V-SRC-5 has the shape of a full binary tree. -/
theorem srcTree_shape : TreeShape srcTree.node 4 where
  two_le := by decide
  le_max := by decide
  leaves := by decide +kernel
  distinct := by
    intro i j hi hj
    interval_cases i <;> interval_cases j <;> decide +kernel
  internal := by
    intro n h1 h2
    interval_cases n <;> decide +kernel
  oneParent := by
    intro k hk
    interval_cases k
    · refine ⟨4, by decide +kernel, ?_⟩
      rintro n ⟨h1, h2, h3⟩; interval_cases n <;> revert h3 <;> decide +kernel
    · refine ⟨4, by decide +kernel, ?_⟩
      rintro n ⟨h1, h2, h3⟩; interval_cases n <;> revert h3 <;> decide +kernel
    · refine ⟨5, by decide +kernel, ?_⟩
      rintro n ⟨h1, h2, h3⟩; interval_cases n <;> revert h3 <;> decide +kernel
    · refine ⟨6, by decide +kernel, ?_⟩
      rintro n ⟨h1, h2, h3⟩; interval_cases n <;> revert h3 <;> decide +kernel
    · refine ⟨5, by decide +kernel, ?_⟩
      rintro n ⟨h1, h2, h3⟩; interval_cases n <;> revert h3 <;> decide +kernel
    · refine ⟨6, by decide +kernel, ?_⟩
      rintro n ⟨h1, h2, h3⟩; interval_cases n <;> revert h3 <;> decide +kernel

/-- BuildCodesRecordsThePaths and CodesArePrefixFreeAndComplete: the tree of V-SRC-5, and the path to its
leaf d. -/
theorem witness_BuildCodes : srcTree.treeAgrees ∧ srcTree.status.treeValid = true ∧
    leafAtPath srcTree.node srcTree.root [false, true, true] = some 0x64 :=
  ⟨fun _ => ⟨4, by decide +kernel, by decide +kernel, srcTree_shape⟩, rfl, by decide +kernel⟩

/-- A symbol that no leaf of the tree of V-SRC-5 has. -/
theorem witness_BuildCodes_absent :
    ∀ e, leafAtPath srcTree.node srcTree.root e ≠ some 0x65 := by
  have leaf : ∀ n : BitVec 8, (nodeAt srcTree.node n.toNat).sym ≠ 0x65 := by
    have h : ∀ n : Fin 256, (nodeAt srcTree.node n.1).sym ≠ 0x65 := by decide +kernel
    intro n; exact h ⟨n.toNat, n.isLt⟩
  have go : ∀ e n, leafAtPath srcTree.node n e ≠ some 0x65 := by
    intro e
    induction e with
    | nil =>
      intro n h
      unfold leafAtPath at h
      split at h
      · injection h with h; exact leaf n h
      · cases h
    | cons b e ih =>
      intro n h
      unfold leafAtPath at h
      split at h
      · cases h
      · exact ih _ h
  exact fun e => go e _

/-! #### ENCODE and PACK -/

/-- Input "aaaaaabccd" with the table of V-SRC-5. -/
def encodable : State := withInput srcCodes (srcInput.elems .inp 10)

theorem witness_EncodePacksTheCodes :
    0 < encodable.inLen.toNat ∧ encodable.inLen.toNat ≤ encodable.params.maxIn.size ∧
    encodable.status.codesValid = true ∧ encodable.InputLegal ∧
    (∀ x ∈ encodable.inputSyms, (codeOf encodable.code x).len ≠ 0) ∧
    (encodable.inputSyms.flatMap fun x => codeBits (codeOf encodable.code x)).length / 8 + 1 ≤
      encodable.params.maxPk.size := by
  unfold State.InputLegal; decide +kernel

theorem witness_EncodeOfNothing : base.inLen = 0 := rfl

/-- EncodeFails, clause by clause: too long; no table; index 0 is no symbol; index 1 has no code (index 0 is
good); the result does not fit a PK of one byte. -/
theorem witness_EncodeFails :
    base.params.maxIn.size < ({ base with inLen := 17 } : State).inLen.toNat ∧
    (srcInput.inLen.toNat ≤ srcInput.params.maxIn.size ∧ 0 < srcInput.inLen.toNat ∧
      srcInput.status.codesValid = false) ∧
    (let s := withInput srcCodes [0x80, 0x65];
      s.inLen.toNat ≤ s.params.maxIn.size ∧ s.status.codesValid = true ∧ 0 < s.inLen.toNat ∧
      (s.elem .inp 0).getLsbD 7 = true) ∧
    (let s := withInput srcCodes [0x61, 0x65];
      s.inLen.toNat ≤ s.params.maxIn.size ∧ s.status.codesValid = true ∧ 1 < s.inLen.toNat ∧
      (∀ j, j < 1 → (s.elem .inp j).getLsbD 7 = false ∧ (codeOf s.code (symOf (s.elem .inp j))).len ≠ 0) ∧
      (s.elem .inp 1).getLsbD 7 = false ∧ (codeOf s.code (symOf (s.elem .inp 1))).len = 0) ∧
    (let s := withMaxPkOne encodable;
      s.inLen.toNat ≤ s.params.maxIn.size ∧ 0 < s.inLen.toNat ∧ s.status.codesValid = true ∧
      (∀ j, j < s.inLen.toNat →
        (s.elem .inp j).getLsbD 7 = false ∧ (codeOf s.code (symOf (s.elem .inp j))).len ≠ 0) ∧
      s.params.maxPk.size < (s.inputSyms.map fun x => (codeOf s.code x).len.toNat).sum / 8 + 1) := by
  decide +kernel

theorem witness_PackPacksTheBits :
    let s := withBits base [0x31, 0x30, 0x31, 0x30, 0x31, 0x30, 0x31, 0x30, 0x31]
    s.bitLen.toNat ≤ s.params.maxBits.size ∧
    (∀ i, i < s.bitLen.toNat → s.elem .bits i = 0x30 ∨ s.elem .bits i = 0x31) ∧
    s.bitLen.toNat / 8 + 1 ≤ s.params.maxPk.size := by decide +kernel

theorem witness_PackFails :
    base.params.maxBits.size < ({ base with bitLen := 23 } : State).bitLen.toNat ∧
    (let s := withBits base [0x30, 0x32];
      s.bitLen.toNat ≤ s.params.maxBits.size ∧
      ¬ ∀ i, i < s.bitLen.toNat → s.elem .bits i = 0x30 ∨ s.elem .bits i = 0x31) ∧
    (let s := withMaxPkOne (withBits base (List.replicate 8 0x30));
      s.bitLen.toNat ≤ s.params.maxBits.size ∧
      (∀ i, i < s.bitLen.toNat → s.elem .bits i = 0x30 ∨ s.elem .bits i = 0x31) ∧
      s.params.maxPk.size < s.bitLen.toNat / 8 + 1) := by decide +kernel

/-! #### UNPACK and DECODE -/

/-- The marker in the last place of the header, and no marker in an empty and in a zero first byte. -/
theorem witness_UnpackWritesThePayload :
    (let s := withPacked base [0x01, 0x55];
      s.pkLen.toNat ≤ s.params.maxPk.size ∧ s.Strips 8 false ∧
      8 * s.pkLen.toNat - 8 ≤ s.params.maxBits.size) ∧
    (let s := withPacked base [];
      s.pkLen.toNat ≤ s.params.maxPk.size ∧ s.Strips 0 true ∧
      8 * s.pkLen.toNat - 0 ≤ s.params.maxBits.size) ∧
    (let s := withPacked base [0x00, 0xAB];
      s.pkLen.toNat ≤ s.params.maxPk.size ∧ s.Strips 8 true ∧
      8 * s.pkLen.toNat - 8 ≤ s.params.maxBits.size) := by
  refine ⟨⟨by decide +kernel, .inl ⟨7, by decide +kernel⟩, by decide +kernel⟩,
    ⟨by decide +kernel, .inr (by decide +kernel), by decide +kernel⟩,
    ⟨by decide +kernel, .inr (by decide +kernel), by decide +kernel⟩⟩

/-- Too long a packed buffer, and a payload of 24 bits for the 22 of BITS. -/
theorem witness_UnpackFails :
    base.params.maxPk.size < ({ base with pkLen := 6 } : State).pkLen.toNat ∧
    (let s := withPacked base [0x01, 0xFF, 0xFF, 0xFF];
      s.pkLen.toNat ≤ s.params.maxPk.size ∧ s.Strips 8 false ∧
      s.params.maxBits.size < 8 * s.pkLen.toNat - 8) :=
  ⟨by decide +kernel, by decide +kernel, .inl ⟨7, by decide +kernel⟩, by decide +kernel⟩

theorem witness_UnpackInvertsPack :
    let s := withBits base [0x31, 0x30, 0x31]
    s.bitLen.toNat ≤ s.params.maxBits.size ∧
    (∀ i, i < s.bitLen.toNat → s.elem .bits i = 0x30 ∨ s.elem .bits i = 0x31) ∧
    s.bitLen.toNat / 8 + 1 ≤ s.params.maxPk.size := by decide +kernel

theorem witness_DecodeOfNothing :
    base.pkLen.toNat = 0 ∧
    ((withPacked base [0x01]).pkLen.toNat = 1 ∧ (withPacked base [0x01]).elem .pk 0 = 0x01) ∧
    ((withPacked base [0x00]).pkLen.toNat = 1 ∧ (withPacked base [0x00]).elem .pk 0 = 0x00) := by
  decide +kernel

/-- DecodeEmitsTheCodeWords: two code words of the tree of V-SRC-5 and a part of a third: payload 1, 010, 01
behind the header 01. -/
theorem witness_DecodeEmitsTheCodeWords :
    let s := withPacked srcTree [0x69]
    let words : List (List Bool × Sym) := [([true], 0x61), ([false, true, false], 0x62)]
    let part := [false, true]
    s.treeAgrees ∧ s.status.treeValid = true ∧ s.pkLen.toNat ≤ s.params.maxPk.size ∧
    s.Strips 2 false ∧ 2 < 8 * s.pkLen.toNat ∧ s.streamFrom 2 = words.flatMap Prod.fst ++ part ∧
    (∀ c ∈ words, leafAtPath s.node s.root c.1 = some c.2) ∧
    (∀ k, k ≤ part.length → leafAtPath s.node s.root (part.take k) = none) ∧
    words.length ≤ s.params.maxDec.size := by
  refine ⟨fun _ => ⟨4, by decide +kernel, by decide +kernel, srcTree_shape⟩, ?_⟩
  refine ⟨by decide +kernel, by decide +kernel, .inl ⟨1, by decide +kernel⟩, by decide +kernel,
    by decide +kernel, by decide +kernel, ?_, by decide +kernel⟩
  intro k hk
  have hk : k ≤ 2 := hk
  interval_cases k <;> decide +kernel

/-- DecodeFails, clause by clause: too long; a payload without a tree; 24 code words of one bit and a DEC
of 16. -/
theorem witness_DecodeFails :
    base.params.maxPk.size < ({ base with pkLen := 6 } : State).pkLen.toNat ∧
    (let s := withPacked base [0x03];
      s.pkLen.toNat ≤ s.params.maxPk.size ∧ s.Strips 7 false ∧ 7 < 8 * s.pkLen.toNat ∧
      s.status.treeValid = false) ∧
    (let s := withPacked srcTree [0x01, 0xFF, 0xFF, 0xFF];
      let words : List (List Bool × Sym) := List.replicate 24 ([true], 0x61);
      s.pkLen.toNat ≤ s.params.maxPk.size ∧ s.Strips 8 false ∧ s.status.treeValid = true ∧
      s.streamFrom 8 = words.flatMap Prod.fst ++ [] ∧
      (∀ c ∈ words, c.1 ≠ [] ∧ leafAtPath s.node s.root c.1 = some c.2) ∧
      s.params.maxDec.size < words.length) :=
  ⟨by decide +kernel,
    ⟨by decide +kernel, .inl ⟨6, by decide +kernel⟩, by decide +kernel, by decide +kernel⟩,
    ⟨by decide +kernel, .inl ⟨7, by decide +kernel⟩, by decide +kernel, by decide +kernel,
      by decide +kernel, by decide +kernel⟩⟩

theorem witness_DecodeInvertsEncodeAll :
    ∃ t, exec .encodeAll srcInput = .next t ∧ t.status.err = false ∧
      srcInput.inLen.toNat ≤ srcInput.params.maxDec.size :=
  ⟨_, rfl, by decide +kernel, by decide +kernel⟩

/-! #### Composite commands -/

theorem witness_EncodeAllEncodesTheInput :
    let s : State := { withInput base [0x61, 0x62] with
      params := ⟨0, cap 16, cap 32, cap 22, cap 16⟩ }
    0 < s.inLen.toNat ∧ s.inLen.toNat ≤ s.params.maxIn.size ∧ s.InputLegal ∧
      127 * s.inLen.toNat / 8 + 1 ≤ s.params.maxPk.size := by
  unfold State.InputLegal; decide +kernel

/-- EncodeAllIsItsStages: a failing COUNT; an empty list after SORT; a list of two. -/
theorem witness_EncodeAllIsItsStages :
    (∃ a, exec .count (withInput base [0x80]) = .next a ∧ a.status.err = true) ∧
    (∃ a b, exec .count base = .next a ∧ a.status.err = false ∧ exec .sort a = .next b ∧
      b.slistLen.toNat < 2) ∧
    (∃ a b c d, exec .count srcInput = .next a ∧ a.status.err = false ∧ exec .sort a = .next b ∧
      2 ≤ b.slistLen.toNat ∧ exec .buildTree b = .next c ∧ c.status.err = false ∧
      exec .buildCodes c = .next d) :=
  ⟨⟨_, rfl, by decide +kernel⟩, ⟨_, _, rfl, by decide +kernel, rfl, by decide +kernel⟩,
    ⟨_, _, _, _, rfl, by decide +kernel, rfl, by decide +kernel, rfl, by decide +kernel, rfl⟩⟩

/-! #### Invariants -/

/-- A state with a valid tree and a valid table that meets all the invariants, and its next step. -/
theorem witness_Invariants :
    let s := withPacked srcCodes [0x01, 0xFD, 0x03]
    s.R62Holds ∧ s.MemoryOk ∧ s.CompletionFieldsOk ∧ ∃ t, step s = .next t := by
  refine ⟨⟨?_, ?_, ?_⟩, ⟨?_, ?_⟩, ⟨?_, ?_, ?_⟩, _, rfl⟩
  · unfold State.countsAgree; decide +kernel
  · exact fun _ => ⟨4, by decide +kernel, by decide +kernel, srcTree_shape⟩
  · exact fun _ => ⟨by decide +kernel, by decide +kernel⟩
  · decide +kernel
  · have h : (withPacked srcCodes [0x01, 0xFD, 0x03]).mem =
        [(0x02000000, 0x01), (0x02000001, 0xFD), (0x02000002, 0x03)] := by decide +kernel
    intro c hc
    rw [h] at hc
    refine ⟨.pk, ?_⟩
    revert c; decide +kernel
  · intro h; exact absurd h (by decide +kernel)
  · intro h; exact absurd h (by decide +kernel)
  · intro w left e h; cases h

end Sys2Proof.Tests
end

section
/-! PROOFS. Binary64 rounding (R15, R16). A non-negative pattern is a natural number, its place in the order of
the values; `placeUnits` gives the magnitude of a place and is strictly monotone. `f64Round` then is shown to
pick the place nearest to a quotient, and addition and division of non-negative patterns to be one `f64Round`. -/

namespace Sys2Proof.Machine

/-! ### The fields of a non-negative pattern -/

theorem f64Sign_eq_false_iff (p : Pattern) : f64Sign p = false ↔ p.toNat < 2 ^ 63 := by
  have h : f64Sign p = p.msb := (BitVec.msb_eq_getLsbD_last p).symm
  rw [h, BitVec.msb_eq_false_iff_two_mul_lt]
  omega

theorem f64Exp_of_nonneg {p : Pattern} (h : f64Sign p = false) : f64Exp p = p.toNat / 2 ^ 52 := by
  rw [f64Sign_eq_false_iff] at h
  simp only [f64Exp, BitVec.extractLsb'_toNat, Nat.shiftRight_eq_div_pow]
  omega

theorem f64Frac_eq_mod (p : Pattern) : f64Frac p = p.toNat % 2 ^ 52 := by
  simp [f64Frac]

/-- The non-negative finite patterns are those below +infinity. -/
theorem f64Exp_finite_iff {p : Pattern} (h : f64Sign p = false) :
    f64Exp p < 0x7FF ↔ p.toNat < 0x7FF0000000000000 := by
  rw [f64Exp_of_nonneg h]
  omega

/-- The bits below the sign of a non-negative pattern are the whole pattern. -/
theorem low63_of_nonneg {p : Pattern} (h : f64Sign p = false) :
    (p.extractLsb' 0 63).toNat = p.toNat := by
  rw [f64Sign_eq_false_iff] at h
  simp only [BitVec.extractLsb'_toNat, Nat.shiftRight_zero]
  omega

theorem f64WithSign_false {p : Pattern} (h : f64Sign p = false) : f64WithSign false p = p := by
  apply BitVec.eq_of_toNat_eq
  rw [f64WithSign, BitVec.toNat_append (BitVec.ofBool false), low63_of_nonneg h]
  simp

theorem f64IsNaN_of_finite {p : Pattern} (h : f64Exp p < 0x7FF) : f64IsNaN p = false := by
  simp [f64IsNaN, h.ne]

theorem f64IsInf_of_finite {p : Pattern} (h : f64Exp p < 0x7FF) : f64IsInf p = false := by
  simp [f64IsInf, h.ne]

theorem f64Value_of_nonneg {p : Pattern} (h : f64Sign p = false) : f64Value p = f64Units p := by
  simp [f64Value, h]

theorem f64Key_of_nonneg {p : Pattern} (h : f64Sign p = false) : f64Key p = p.toNat := by
  simp only [f64Key, h, low63_of_nonneg h, Bool.false_eq_true, if_false]

/-- The only infinity with sign bit 0. -/
theorem eq_f64Inf {p : Pattern} (h : f64Sign p = false) (hinf : f64IsInf p = true) : p = f64Inf := by
  simp only [f64IsInf, Bool.and_eq_true, beq_iff_eq, f64Exp_of_nonneg h, f64Frac_eq_mod] at hinf
  obtain ⟨hexp, hfrac⟩ := hinf
  apply BitVec.eq_of_toNat_eq
  change p.toNat = 0x7FF0000000000000
  omega

theorem getLsbD_zero_eq_false_iff (p : Pattern) : p.getLsbD 0 = false ↔ p.toNat % 2 = 0 := by
  simp [BitVec.getLsbD, Nat.testBit_zero]

/-! ### Places and their magnitudes -/

/-- The magnitude of the non-negative pattern number `m`, in units of 2^-1074; above the finite patterns the
exponents go on, so that `placeUnits 0x7FF0000000000000` is what the successor of the greatest finite value
would be. -/
def placeUnits (m : Nat) : Nat :=
  if m / 2 ^ 52 = 0 then m % 2 ^ 52 else (2 ^ 52 + m % 2 ^ 52) * 2 ^ (m / 2 ^ 52 - 1)

theorem f64Units_of_nonneg {p : Pattern} (h : f64Sign p = false) : f64Units p = placeUnits p.toNat := by
  simp only [f64Units, placeUnits, f64Exp_of_nonneg h, f64Frac_eq_mod]

/-- A significand `r` at the exponent `e` has its place at `e * 2^52 + r`; a significand of 54 bits too, since
it carries into the exponent. -/
theorem placeUnits_of_significand {e r : Nat} (hr : r ≤ 2 ^ 53) (hnormal : e = 0 ∨ 2 ^ 52 ≤ r) :
    placeUnits (e * 2 ^ 52 + r) = r * 2 ^ e := by
  unfold placeUnits
  rcases Nat.lt_or_ge r (2 ^ 52) with hsub | hge
  · obtain rfl : e = 0 := by omega
    rw [if_pos (by omega), show (0 * 2 ^ 52 + r) % 2 ^ 52 = r by omega, pow_zero, mul_one]
  · rw [if_neg (by omega)]
    rcases Nat.lt_or_ge r (2 ^ 53) with hlt | hcarry
    · rw [show (e * 2 ^ 52 + r) / 2 ^ 52 - 1 = e by omega,
        show 2 ^ 52 + (e * 2 ^ 52 + r) % 2 ^ 52 = r by omega]
    · rw [show (e * 2 ^ 52 + r) / 2 ^ 52 - 1 = e + 1 by omega,
        show 2 ^ 52 + (e * 2 ^ 52 + r) % 2 ^ 52 = 2 ^ 52 by omega, show r = 2 ^ 53 by omega]
      ring

theorem exists_significand (m : Nat) : ∃ e r, r < 2 ^ 53 ∧ (e = 0 ∨ 2 ^ 52 ≤ r) ∧ m = e * 2 ^ 52 + r := by
  rcases Nat.eq_zero_or_pos (m / 2 ^ 52) with h | h
  · exact ⟨0, m, by omega, .inl rfl, by omega⟩
  · exact ⟨m / 2 ^ 52 - 1, 2 ^ 52 + m % 2 ^ 52, by omega, by omega, by omega⟩

theorem placeUnits_strictMono : StrictMono placeUnits := by
  refine strictMono_nat_of_lt_succ fun m => ?_
  obtain ⟨e, r, hr, hnormal, rfl⟩ := exists_significand m
  rw [placeUnits_of_significand hr.le hnormal, add_assoc,
    placeUnits_of_significand hr (hnormal.imp_right fun h => h.trans r.le_succ)]
  exact Nat.mul_lt_mul_of_pos_right r.lt_succ_self (Nat.two_pow_pos e)

/-! ### The nearest place, ties to even -/

/-- The distance of the place `m` from the quotient `n / d`, times `d`. -/
def placeDist (n d m : Nat) : Int := |(placeUnits m : Int) * d - n|

/-- No place is nearer to `n / d` than `m`, and where another is equally near, `m` is even. -/
def NearestPlace (n d m : Nat) : Prop :=
  ∀ k, placeDist n d m ≤ placeDist n d k ∧ (placeDist n d m = placeDist n d k → k ≠ m → m % 2 = 0)

/-- A quotient `a` above the place `lo` and `b` below the next one rounds to the nearer of the two, and from
midway to the even one. -/
theorem nearestPlace_of_between {n d lo a b : Nat} (hd : 0 < d) (hb : 0 < b)
    (hlo : n = placeUnits lo * d + a) (hhi : placeUnits (lo + 1) * d = n + b) :
    NearestPlace n d (if b < a ∨ a = b ∧ lo % 2 = 1 then lo + 1 else lo) := by
  have hmono : StrictMono fun k => placeUnits k * d := fun j k h =>
    Nat.mul_lt_mul_of_pos_right (placeUnits_strictMono h) hd
  intro k
  have hk : k = lo ∨ k = lo + 1 ∨ placeUnits k * d < placeUnits lo * d ∨
      placeUnits (lo + 1) * d < placeUnits k * d := by
    rcases lt_trichotomy k lo with h | h | h
    · exact .inr (.inr (.inl (hmono h)))
    · exact .inl h
    · rcases (Nat.succ_le_of_lt h).eq_or_lt with h' | h'
      · exact .inr (.inl h'.symm)
      · exact .inr (.inr (.inr (hmono h')))
  simp only [placeDist, Int.abs_eq_natAbs, ← Nat.cast_mul]
  split
  all_goals rcases hk with rfl | rfl | h | h <;> omega

/-- The place that `f64Round` computes, before it looks for an overflow. -/
def roundPlace (n d : Nat) : Nat :=
  ((n / d).log2 - 52) * 2 ^ 52 + roundDiv n (d * 2 ^ ((n / d).log2 - 52))

theorem f64Round_eq (n d : Nat) :
    f64Round n d = if roundPlace n d < 0x7FF0000000000000 then BitVec.ofNat 64 (roundPlace n d)
      else f64Inf := rfl

/-- The quotient with the bits beyond a 53-bit significand cut off: a significand of 53 bits, or fewer where
nothing is cut off. -/
theorem significand_bounds {q e : Nat} (he : e = q.log2 - 52) :
    q / 2 ^ e < 2 ^ 53 ∧ (e = 0 ∨ 2 ^ 52 ≤ q / 2 ^ e) := by
  have hlt : q < 2 ^ (q.log2 + 1) := Nat.lt_log2_self
  constructor
  · rw [Nat.div_lt_iff_lt_mul (Nat.two_pow_pos e), ← pow_add]
    exact hlt.trans_le (Nat.pow_le_pow_right two_pos (by omega))
  · refine Nat.eq_zero_or_pos e |>.imp_right fun hpos => ?_
    rw [Nat.le_div_iff_mul_le (Nat.two_pow_pos e), ← pow_add, show 52 + e = q.log2 by omega]
    exact Nat.log2_self_le (by rintro rfl; simp at he; omega)

theorem roundPlace_nearest (n : Nat) {d : Nat} (hd : 0 < d) : NearestPlace n d (roundPlace n d) := by
  unfold roundPlace roundDiv
  generalize he : (n / d).log2 - 52 = e
  obtain ⟨hlt, hnormal⟩ := significand_bounds he.symm
  rw [Nat.div_div_eq_div_mul] at hlt hnormal
  have hdiv := Nat.div_add_mod n (d * 2 ^ e)
  have hmod := Nat.mod_lt n (Nat.mul_pos hd (Nat.two_pow_pos e))
  generalize n / (d * 2 ^ e) = r at *
  generalize n % (d * 2 ^ e) = a at *
  have hlo : n = placeUnits (e * 2 ^ 52 + r) * d + a := by
    rw [placeUnits_of_significand hlt.le hnormal, ← hdiv]; ring
  have hhi : placeUnits (e * 2 ^ 52 + r + 1) * d = n + (d * 2 ^ e - a) := by
    have hnext : placeUnits (e * 2 ^ 52 + r + 1) * d = d * 2 ^ e * r + d * 2 ^ e := by
      rw [add_assoc, placeUnits_of_significand (r := r + 1) hlt (by omega)]; ring
    omega
  convert nearestPlace_of_between hd (Nat.sub_pos_of_lt hmod) hlo hhi using 1
  split_ifs <;> omega

/-! ### What `f64Round` gives -/

theorem placeUnits_greatest : placeUnits 0x7FEFFFFFFFFFFFFF = (2 ^ 54 - 2) * 2 ^ 2044 := by
  rw [show 0x7FEFFFFFFFFFFFFF = 2045 * 2 ^ 52 + (2 ^ 53 - 1) by norm_num,
    placeUnits_of_significand (by norm_num) (by norm_num), pow_succ 2 2044]
  omega

theorem placeUnits_infinity : placeUnits 0x7FF0000000000000 = 2 ^ 54 * 2 ^ 2044 := by
  rw [show 0x7FF0000000000000 = 2045 * 2 ^ 52 + 2 ^ 53 by norm_num,
    placeUnits_of_significand (by norm_num) (by norm_num), pow_succ 2 2044]
  omega

/-- The bound of overflow: the quotients below the midpoint of the greatest finite value and its successor
round to finite places, and no others. -/
theorem nearestPlace_finite_iff {n d m : Nat} (hd : 0 < d) (h : NearestPlace n d m) :
    m < 0x7FF0000000000000 ↔ n < (2 ^ 54 - 1) * 2 ^ 2044 * d := by
  have hgreatest : placeUnits 0x7FEFFFFFFFFFFFFF * d = (2 ^ 54 - 2) * (2 ^ 2044 * d) := by
    rw [placeUnits_greatest, mul_assoc]
  have hinfinity : placeUnits 0x7FF0000000000000 * d = 2 ^ 54 * (2 ^ 2044 * d) := by
    rw [placeUnits_infinity, mul_assoc]
  have hpos : 0 < 2 ^ 2044 * d := by positivity
  obtain ⟨hleG, htieG⟩ := h 0x7FEFFFFFFFFFFFFF
  obtain ⟨hleI, htieI⟩ := h 0x7FF0000000000000
  simp only [placeDist, Int.abs_eq_natAbs, ← Nat.cast_mul, hgreatest, hinfinity]
    at hleG htieG hleI htieI
  rw [mul_assoc]
  generalize 2 ^ 2044 * d = x at *
  rcases Nat.lt_or_ge m 0x7FF0000000000000 with hm | hm
  · have hle : placeUnits m * d ≤ placeUnits 0x7FEFFFFFFFFFFFFF * d :=
      Nat.mul_le_mul_right d (placeUnits_strictMono.monotone (by omega))
    have hlt : m = 0x7FEFFFFFFFFFFFFF ∨ placeUnits m * d < placeUnits 0x7FEFFFFFFFFFFFFF * d :=
      (show m ≤ 0x7FEFFFFFFFFFFFFF by omega).eq_or_lt.imp_right fun h =>
        Nat.mul_lt_mul_of_pos_right (placeUnits_strictMono h) hd
    omega
  · have hge : placeUnits 0x7FF0000000000000 * d ≤ placeUnits m * d :=
      Nat.mul_le_mul_right d (placeUnits_strictMono.monotone hm)
    omega

/-- Below the bound of overflow, the rounded pattern is non-negative, finite and nearest. -/
theorem f64Round_of_lt {n d : Nat} (hd : 0 < d) (h : n < (2 ^ 54 - 1) * 2 ^ 2044 * d) :
    (f64Round n d).toNat < 0x7FF0000000000000 ∧ NearestPlace n d (f64Round n d).toNat := by
  have hnear := roundPlace_nearest n hd
  have hfin := (nearestPlace_finite_iff hd hnear).mpr h
  have hplace : (f64Round n d).toNat = roundPlace n d := by
    rw [f64Round_eq, if_pos hfin, BitVec.toNat_ofNat]
    omega
  rw [hplace]
  exact ⟨hfin, hnear⟩

theorem f64Round_of_ge {n d : Nat} (hd : 0 < d) (h : (2 ^ 54 - 1) * 2 ^ 2044 * d ≤ n) :
    f64Round n d = f64Inf := by
  rw [f64Round_eq, if_neg]
  rw [nearestPlace_finite_iff hd (roundPlace_nearest n hd)]
  exact h.not_gt

/-- A non-negative pattern at a nearest place is a nearest non-negative pattern, with an even significand where
another is equally near. -/
theorem nearest_pattern {n d : Nat} {p q : Pattern} (hp : f64Sign p = false) (hq : f64Sign q = false)
    (h : NearestPlace n d p.toNat) :
    |(f64Units p : Int) * d - n| ≤ |(f64Units q : Int) * d - n| ∧
    (|(f64Units p : Int) * d - n| = |(f64Units q : Int) * d - n| → q ≠ p → p.getLsbD 0 = false) := by
  rw [f64Units_of_nonneg hp, f64Units_of_nonneg hq, getLsbD_zero_eq_false_iff]
  obtain ⟨hle, htie⟩ := h q.toNat
  exact ⟨hle, fun heq hne => htie heq fun hplace => hne (BitVec.eq_of_toNat_eq hplace)⟩

theorem finite_of_toNat_lt {p : Pattern} (h : p.toNat < 0x7FF0000000000000) :
    f64Sign p = false ∧ f64Exp p < 0x7FF := by
  have hsign : f64Sign p = false := (f64Sign_eq_false_iff p).mpr (by omega)
  exact ⟨hsign, (f64Exp_finite_iff hsign).mpr h⟩

/-- A value that is representable is its own nearest place. -/
theorem NearestPlace.eq_of_exact {n m k : Nat} (h : NearestPlace n 1 m) (hk : placeUnits k = n) :
    placeUnits m = n := by
  have hdist := (h k).1
  simp only [placeDist, hk, Nat.cast_one, mul_one, sub_self, abs_zero, abs_nonpos_iff] at hdist
  omega

theorem NearestPlace.of_mul_right {n d k m : Nat} (hk : 0 < k) (h : NearestPlace (n * k) (d * k) m) :
    NearestPlace n d m := by
  have hscale : ∀ j, placeDist (n * k) (d * k) j = placeDist n d j * k := fun j => by
    have hdist : (placeUnits j : Int) * (d * k : Nat) - (n * k : Nat) = (placeUnits j * d - n) * k := by
      push_cast; ring
    rw [placeDist, hdist, abs_mul, Nat.abs_cast, placeDist]
  have hk' : (0 : Int) < k := by exact_mod_cast hk
  intro j
  obtain ⟨hle, htie⟩ := h j
  rw [hscale, hscale] at hle htie
  exact ⟨le_of_mul_le_mul_right hle hk', fun heq => htie (by rw [heq])⟩

/-! ### Conversion, addition, division -/

/-- A natural below 2^53, shifted to a 53-bit significand, has a place of exactly its magnitude. -/
theorem exists_place_of_lt {n : Nat} (h : n < 2 ^ 53) : ∃ k, placeUnits k = n * 2 ^ 1074 := by
  rcases Nat.eq_zero_or_pos n with rfl | hpos
  · exact ⟨0, (Nat.zero_mul _).symm⟩
  · have hlog : n.log2 < 53 := (Nat.log2_lt hpos.ne').mpr h
    have hlow : 2 ^ 52 ≤ n * 2 ^ (52 - n.log2) := by
      calc 2 ^ 52 = 2 ^ n.log2 * 2 ^ (52 - n.log2) := by rw [← pow_add]; congr 1; omega
        _ ≤ n * 2 ^ (52 - n.log2) := Nat.mul_le_mul_right _ (Nat.log2_self_le hpos.ne')
    have hhigh : n * 2 ^ (52 - n.log2) ≤ 2 ^ 53 := by
      calc n * 2 ^ (52 - n.log2) ≤ 2 ^ (n.log2 + 1) * 2 ^ (52 - n.log2) :=
            Nat.mul_le_mul_right _ Nat.lt_log2_self.le
        _ = 2 ^ 53 := by rw [← pow_add]; congr 1; omega
    refine ⟨(1022 + n.log2) * 2 ^ 52 + n * 2 ^ (52 - n.log2), ?_⟩
    rw [placeUnits_of_significand hhigh (.inr hlow), mul_assoc, ← pow_add]
    congr 2
    omega

/-- Counts are far below the bound of overflow. -/
theorem count_lt_overflow {n : Nat} (h : n < 2 ^ 53) : n * 2 ^ 1074 < (2 ^ 54 - 1) * 2 ^ 2044 := by
  calc n * 2 ^ 1074 < (2 ^ 54 - 1) * 2 ^ 1074 := by gcongr; omega
    _ ≤ (2 ^ 54 - 1) * 2 ^ 2044 := by gcongr <;> norm_num

/-- A positive count is a number of units far above any count. -/
theorem count_le_units {c t : Nat} (hc : 0 < c) (ht : t < 2 ^ 53) : t ≤ c * 2 ^ 1074 := by
  calc t ≤ 1 * 2 ^ 53 := by omega
    _ ≤ c * 2 ^ 1074 := by gcongr <;> omega

/-- `u2f` is exact below 2^53 (R15). -/
theorem u2f_exact {n : Nat} (h : n < 2 ^ 53) :
    f64Sign (u2f n) = false ∧ f64Exp (u2f n) < 0x7FF ∧ f64Units (u2f n) = n * 2 ^ 1074 := by
  obtain ⟨hfin, hnear⟩ := f64Round_of_lt one_pos (by rw [mul_one]; exact count_lt_overflow h)
  obtain ⟨k, hk⟩ := exists_place_of_lt h
  obtain ⟨hsign, hexp⟩ := finite_of_toNat_lt hfin
  refine ⟨hsign, hexp, ?_⟩
  rw [u2f, f64Units_of_nonneg hsign]
  exact hnear.eq_of_exact hk

theorem f64Round_zero : f64Round 0 1 = probZero := by decide

theorem f64Round_nonneg {n d : Nat} (hd : 0 < d) : f64Sign (f64Round n d) = false := by
  rcases Nat.lt_or_ge n ((2 ^ 54 - 1) * 2 ^ 2044 * d) with h | h
  · exact (finite_of_toNat_lt (f64Round_of_lt hd h).1).1
  · rw [f64Round_of_ge hd h]; rfl

/-- The sum of two non-negative finite patterns is the rounded sum of their magnitudes. -/
theorem f64Add_of_finite {a b : Pattern} (ha : f64Sign a = false) (hb : f64Sign b = false)
    (hea : f64Exp a < 0x7FF) (heb : f64Exp b < 0x7FF) :
    f64Add a b = f64Round (f64Units a + f64Units b) 1 := by
  simp only [f64Add, f64IsNaN_of_finite hea, f64IsNaN_of_finite heb, f64IsInf_of_finite hea,
    f64IsInf_of_finite heb, f64Value_of_nonneg ha, f64Value_of_nonneg hb, ha, hb, Bool.or_self,
    Bool.and_self, Bool.false_eq_true, if_false, ← Nat.cast_add, Int.natAbs_natCast]
  generalize f64Units a + f64Units b = v
  split
  next hzero =>
    obtain rfl : v = 0 := by exact_mod_cast hzero
    rw [f64Round_zero]; exact f64WithSign_false rfl
  next =>
    rw [decide_eq_false (by omega)]
    exact f64WithSign_false (f64Round_nonneg one_pos)

/-- The quotient of two non-negative finite patterns is their rounded quotient. -/
theorem f64Div_of_finite {a b : Pattern} (ha : f64Sign a = false) (hb : f64Sign b = false)
    (hea : f64Exp a < 0x7FF) (heb : f64Exp b < 0x7FF) (hpos : 0 < f64Units b) :
    f64Div a b = f64Round (f64Units a * 2 ^ 1074) (f64Units b) := by
  simp only [f64Div, f64IsNaN_of_finite hea, f64IsNaN_of_finite heb, f64IsInf_of_finite hea,
    f64IsInf_of_finite heb, ha, hb, Bool.or_self, bne_self_eq_false, Bool.false_eq_true, if_false,
    if_neg hpos.ne']
  exact f64WithSign_false (f64Round_nonneg hpos)

theorem f64Inf_fields :
    f64IsInf f64Inf = true ∧ f64IsNaN f64Inf = false ∧ f64Sign f64Inf = false := by decide

theorem f64Add_inf_left {a : Pattern} (ha : f64Sign a = false) (hnan : f64IsNaN a = false) :
    f64Add f64Inf a = f64Inf := by
  simp [f64Add, f64Inf_fields, hnan, ha]

theorem f64Add_inf_right {a : Pattern} (ha : f64Sign a = false) (hnan : f64IsNaN a = false) :
    f64Add a f64Inf = f64Inf := by
  obtain ⟨hinf, hnanInf, hsign⟩ := f64Inf_fields
  cases ha' : f64IsInf a
  · simp [f64Add, hinf, hnanInf, hnan, ha']
  · rw [eq_f64Inf ha ha', f64Add_inf_left hsign hnanInf]

/-- The quotient of two counts: the rounded exact quotient, finite. -/
theorem f64Div_count {c t : Nat} (ht : 0 < t) (hc' : c < 2 ^ 53) (ht' : t < 2 ^ 53) :
    (f64Div (u2f c) (u2f t)).toNat < 0x7FF0000000000000 ∧
    NearestPlace (c * 2 ^ 1074) t (f64Div (u2f c) (u2f t)).toNat := by
  obtain ⟨hcs, hce, hcu⟩ := u2f_exact hc'
  obtain ⟨hts, hte, htu⟩ := u2f_exact ht'
  have hpow : 0 < 2 ^ 1074 := by positivity
  have hpos : 0 < f64Units (u2f t) := by rw [htu]; exact Nat.mul_pos ht hpow
  rw [f64Div_of_finite hcs hts hce hte hpos, hcu, htu]
  obtain ⟨hfin, hnear⟩ := f64Round_of_lt (n := c * 2 ^ 1074 * 2 ^ 1074) (Nat.mul_pos ht hpow) (by
    rw [← mul_assoc]
    refine Nat.mul_lt_mul_of_pos_right ?_ hpow
    exact (count_lt_overflow hc').trans_le (Nat.le_mul_of_pos_right _ ht))
  exact ⟨hfin, hnear.of_mul_right hpow⟩

/-- The place of zero is not nearest to a quotient of at least one unit. -/
theorem NearestPlace.pos {n d m : Nat} (hd : 0 < d) (hle : d ≤ n) (h : NearestPlace n d m) :
    0 < placeUnits m := by
  have hone : placeUnits 1 = 1 := rfl
  have hdist := (h 1).1
  refine Nat.pos_of_ne_zero fun hzero => ?_
  simp only [placeDist, hzero, hone, Int.abs_eq_natAbs] at hdist
  omega

end Sys2Proof.Machine

open Sys2Proof Sys2Proof.Machine

/-- Settles O29: the sum is one rounding of the exact sum of the magnitudes. -/
theorem additionRoundsToNearestEven : Obligations.AdditionRoundsToNearestEven := by
  refine ⟨fun n => u2f_exact, ?nearest, ?overflow, fun a ha hnan =>
    ⟨f64Add_inf_left ha hnan, f64Add_inf_right ha hnan⟩⟩
  case nearest =>
    intro a b q ha hb hq hea heb _ hlt
    rw [f64Add_of_finite ha hb hea heb]
    obtain ⟨hfin, hnear⟩ := f64Round_of_lt one_pos (by rwa [mul_one])
    obtain ⟨hsign, hexp⟩ := finite_of_toNat_lt hfin
    have := nearest_pattern hsign hq hnear
    simp only [Nat.cast_one, mul_one, Nat.cast_add] at this
    exact ⟨hsign, hexp, this⟩
  case overflow =>
    intro a b ha hb hea heb hge
    rw [f64Add_of_finite ha hb hea heb]
    exact f64Round_of_ge one_pos (by rwa [mul_one])

/-- Settles O30: the quotient of two exact conversions is one rounding of the exact quotient. -/
theorem divisionRoundsToNearestEven : Obligations.DivisionRoundsToNearestEven := by
  intro c t q hc ht hc' ht' hq _
  obtain ⟨hfin, hnear⟩ := f64Div_count ht hc' ht'
  obtain ⟨hsign, hexp⟩ := finite_of_toNat_lt hfin
  have hunits : 0 < f64Units (f64Div (u2f c) (u2f t)) := by
    rw [f64Units_of_nonneg hsign]
    exact hnear.pos ht (count_le_units hc ht')
  have := nearest_pattern hsign hq hnear
  rw [Nat.cast_mul, Nat.cast_pow] at this
  exact ⟨hsign, hexp, hunits, this⟩

/-- Settles O31: with sign bit 0 the key of the comparison is the pattern itself. -/
theorem comparisonIsUnsigned : Obligations.ComparisonIsUnsigned := by
  intro a b ha hb hnanA hnanB
  simp only [f64Le, hnanA, hnanB, f64Key_of_nonneg ha, f64Key_of_nonneg hb, Nat.cast_le, Bool.not_false,
    Bool.true_and]
end

section
/-! PROOFS. What the merge of BUILD_TREE and the count of COUNT establish (R97, R109). -/

namespace Sys2Proof.Machine

/-! ### The arena of a merge (R106, R107, R109) -/

/-- The read of the arena after one element is written. -/
theorem nodeAt_setIfInBounds (node : Vector NodeEntry 255) {i : Nat} (hi : i < 255) (e : NodeEntry) (n : Nat) :
    nodeAt (node.setIfInBounds i e) n = if n = i then e else nodeAt node n := by
  by_cases h : n = i
  · subst h; simp [nodeAt, hi]
  · rw [if_neg h, nodeAt, Vector.getElem?_setIfInBounds_ne (Ne.symm h), nodeAt]

/-- A node has left its queue: a leaf before the source head, or an internal node before the target head. -/
def Merge.Taken (len : Nat) (m : Merge) (i : Nat) : Prop := i < m.sh ∨ (len ≤ i ∧ i < m.th)

/-- The queue heads stand inside their queues (R105). -/
structure Merge.QueuesOk (len : Nat) (m : Merge) : Prop where
  sh_le : m.sh ≤ len
  le_th : len ≤ m.th
  th_le : m.th ≤ m.tt

/-- What taking node `i` does to the queues: the node has not been taken yet, and it alone is taken now. -/
structure Merge.Takes (len : Nat) (m m' : Merge) (i : Nat) : Prop where
  lt_tt  : i < m.tt
  fresh  : ¬ m.Taken len i
  taken  : ∀ j, m'.Taken len j ↔ m.Taken len j ∨ j = i
  node   : m'.node = m.node
  tt     : m'.tt = m.tt
  count  : m'.sh + m'.th = m.sh + m.th + 1
  queues : m'.QueuesOk len

theorem Merge.takes_source {len : Nat} {m : Merge} (h : m.QueuesOk len) (hs : m.sh < len) :
    m.Takes len m.fromSource.2 m.fromSource.1 := by
  obtain ⟨h1, h2, h3⟩ := h
  refine ⟨?_, ?_, fun j => ?_, rfl, rfl, ?_, ⟨?_, ?_, ?_⟩⟩ <;>
    simp only [Merge.fromSource, Merge.Taken] <;> omega

theorem Merge.takes_target {len : Nat} {m : Merge} (h : m.QueuesOk len) (ht : m.th < m.tt) :
    m.Takes len m.fromTarget.2 m.fromTarget.1 := by
  obtain ⟨h1, h2, h3⟩ := h
  refine ⟨?_, ?_, fun j => ?_, rfl, rfl, ?_, ⟨?_, ?_, ?_⟩⟩ <;>
    simp only [Merge.fromTarget, Merge.Taken] <;> omega

/-- Whatever the head selection of R106 decides, it takes one node, as long as one is left. -/
theorem Merge.takes_take {len : Nat} {m : Merge} (h : m.QueuesOk len) (hleft : m.sh < len ∨ m.th < m.tt) :
    m.Takes len (m.take len).2 (m.take len).1 := by
  have := h.sh_le
  have := h.th_le
  rw [Merge.take]
  split
  · exact Merge.takes_source h (by omega)
  · split
    · exact Merge.takes_target h (by omega)
    · split
      · exact Merge.takes_source h (by omega)
      · exact Merge.takes_target h (by omega)

/-- What one merge step does: it takes two different nodes and appends their parent (R107). -/
structure Merge.Joins (len : Nat) (m m' : Merge) (l r : Nat) : Prop where
  ne : l ≠ r
  left_lt : l < m.tt
  right_lt : r < m.tt
  left_fresh : ¬ m.Taken len l
  right_fresh : ¬ m.Taken len r
  taken : ∀ j, m'.Taken len j ↔ m.Taken len j ∨ j = l ∨ j = r
  node : m'.node = m.node.setIfInBounds m.tt (joinNodes m.node l r)
  tt : m'.tt = m.tt + 1
  count : m'.sh + m'.th = m.sh + m.th + 2
  th_le : m'.th ≤ m.tt
  queues : m'.QueuesOk len

theorem Merge.step_eq (len : Nat) (m : Merge) : m.step len =
    { ((m.take len).2.take len).2 with
      node := ((m.take len).2.take len).2.node.setIfInBounds ((m.take len).2.take len).2.tt
        (joinNodes ((m.take len).2.take len).2.node (m.take len).1 ((m.take len).2.take len).1)
      tt := ((m.take len).2.take len).2.tt + 1 } := rfl

theorem Merge.step_joins {len : Nat} {m : Merge} (h : m.QueuesOk len)
    (hleft : m.sh + m.th + 2 ≤ len + m.tt) : ∃ l r, m.Joins len (m.step len) l r := by
  have first : m.Takes len (m.take len).2 (m.take len).1 :=
    Merge.takes_take h (by have := h.sh_le; have := h.th_le; omega)
  have second : (m.take len).2.Takes len ((m.take len).2.take len).2 ((m.take len).2.take len).1 :=
    Merge.takes_take first.queues (by have := first.count; have := first.tt; omega)
  have hfresh := second.fresh
  rw [first.taken, not_or] at hfresh
  have hnode := second.node.trans first.node
  have htt := second.tt.trans first.tt
  have hcount := second.count
  rw [first.count] at hcount
  have ⟨hsh, hle, hth⟩ := second.queues
  rw [Merge.step_eq, hnode, htt]
  refine ⟨(m.take len).1, ((m.take len).2.take len).1, Ne.symm hfresh.2, first.lt_tt, ?_, first.fresh,
    hfresh.1, fun j => ?_, rfl, rfl, hcount, ?_, ⟨hsh, hle, ?_⟩⟩
  · exact first.tt ▸ second.lt_tt
  · rw [← or_assoc, ← first.taken]; exact second.taken j
  · exact htt ▸ hth
  · exact Nat.le_succ_of_le (htt ▸ hth)

/-- The two fields of an internal node that name its children. -/
def NodeEntry.hasChild (e : NodeEntry) (k : Nat) : Prop := e.left.toNat = k ∨ e.right.toNat = k

/-- After `k` merge steps of the list `l`: the leaves are those of the list, `k` internal nodes have been
made, and a node has a parent among them exactly when it has been taken, and then only one. -/
structure Merge.Inv (l : List FreqEntry) (k : Nat) (m : Merge) : Prop where
  queues : m.QueuesOk l.length
  tt     : m.tt = l.length + k
  count  : m.sh + m.th = l.length + 2 * k
  lastFree : 0 < k → m.th < m.tt
  leaves : ∀ n (h : n < l.length), nodeAt m.node n = leafOf l[n]
  internal : ∀ n, l.length ≤ n → n < m.tt →
    (nodeAt m.node n).leaf = false ∧ (nodeAt m.node n).sym = 0 ∧
    (nodeAt m.node n).left.toNat < n ∧ (nodeAt m.node n).right.toNat < n ∧
    (nodeAt m.node n).left ≠ (nodeAt m.node n).right
  childTaken : ∀ n j, l.length ≤ n → n < m.tt → (nodeAt m.node n).hasChild j → m.Taken l.length j
  oneParent : ∀ j, m.Taken l.length j →
    ∃! n, l.length ≤ n ∧ n < m.tt ∧ (nodeAt m.node n).hasChild j

theorem Merge.inv_begin (node : Vector NodeEntry 255) {l : List FreqEntry} (h : l.length ≤ 128) :
    (Merge.begin node l).Inv l 0 where
  queues := ⟨Nat.zero_le _, le_rfl, le_rfl⟩
  tt := rfl
  count := by simp [Merge.begin]
  lastFree h := absurd h (lt_irrefl 0)
  leaves n hn := by
    have hn' : n < 255 := by omega
    rw [nodeAt, Merge.begin, Vector.getElem?_eq_getElem hn', getElem_overlay_lt _ _ hn' (by simpa using hn)]
    simp
  internal n h1 h2 := absurd h2 (Nat.not_lt.mpr h1)
  childTaken n _ h1 h2 := absurd h2 (Nat.not_lt.mpr h1)
  oneParent j hj := by
    simp only [Merge.Taken, Merge.begin] at hj
    omega

/-- The children of a joined node, below 256, are the two joined nodes. -/
theorem joinNodes_hasChild (node : Vector NodeEntry 255) {l r : Nat} (hl : l < 256) (hr : r < 256) (j : Nat) :
    (joinNodes node l r).hasChild j ↔ j = l ∨ j = r := by
  simp only [NodeEntry.hasChild, joinNodes, BitVec.toNat_ofNat]
  omega

section
variable {l : List FreqEntry} {k a b : Nat} {m m' : Merge} (h : m.Inv l k) (hj : m.Joins l.length m' a b)
  (htt : m.tt < 255)
include hj htt

theorem Merge.Joins.nodeAt_old {n : Nat} (hn : n < m.tt) : nodeAt m'.node n = nodeAt m.node n := by
  rw [hj.node, nodeAt_setIfInBounds _ htt, if_neg (by omega)]

theorem Merge.Joins.nodeAt_new : nodeAt m'.node m.tt = joinNodes m.node a b := by
  rw [hj.node, nodeAt_setIfInBounds _ htt, if_pos rfl]

/-- After a merge step the parents are the old ones, and the new node for the two nodes just taken. -/
theorem Merge.Joins.hasChild_iff {n : Nat} (hn : n < m'.tt) (j : Nat) : (nodeAt m'.node n).hasChild j ↔
    (n < m.tt ∧ (nodeAt m.node n).hasChild j) ∨ (n = m.tt ∧ (j = a ∨ j = b)) := by
  have ha := hj.left_lt
  have hb := hj.right_lt
  rw [hj.tt] at hn
  rcases Nat.lt_succ_iff_lt_or_eq.mp hn with hn | rfl
  · simp [hj.nodeAt_old htt hn, hn, hn.ne]
  · simp [hj.nodeAt_new htt, joinNodes_hasChild m.node (show a < 256 by omega) (show b < 256 by omega)]

include h

theorem Merge.Inv.internal_step {n : Nat} (h1 : l.length ≤ n) (h2 : n < m'.tt) :
    (nodeAt m'.node n).leaf = false ∧ (nodeAt m'.node n).sym = 0 ∧
    (nodeAt m'.node n).left.toNat < n ∧ (nodeAt m'.node n).right.toNat < n ∧
    (nodeAt m'.node n).left ≠ (nodeAt m'.node n).right := by
  have ha := hj.left_lt
  have hb := hj.right_lt
  rw [hj.tt] at h2
  rcases Nat.lt_succ_iff_lt_or_eq.mp h2 with h2 | rfl
  · rw [hj.nodeAt_old htt h2]
    exact h.internal n h1 h2
  · have left : (joinNodes m.node a b).left.toNat = a := Nat.mod_eq_of_lt (by omega)
    have right : (joinNodes m.node a b).right.toNat = b := Nat.mod_eq_of_lt (by omega)
    rw [hj.nodeAt_new htt]
    refine ⟨rfl, rfl, left.trans_lt ha, right.trans_lt hb, fun heq => hj.ne ?_⟩
    exact left.symm.trans ((congrArg BitVec.toNat heq).trans right)

theorem Merge.Inv.childTaken_step {n j : Nat} (h1 : l.length ≤ n) (h2 : n < m'.tt)
    (hc : (nodeAt m'.node n).hasChild j) : m'.Taken l.length j := by
  rw [hj.taken]
  rcases (hj.hasChild_iff htt h2 j).mp hc with ⟨hn, hc⟩ | ⟨-, hab⟩
  · exact .inl (h.childTaken n j h1 hn hc)
  · exact .inr hab

/-- A node taken earlier keeps its parent, since the new node's children had not been taken; the two nodes
just taken get the new one, since an earlier parent would have had them taken. -/
theorem Merge.Inv.oneParent_step {j : Nat} (hjt : m'.Taken l.length j) :
    ∃! n, l.length ≤ n ∧ n < m'.tt ∧ (nodeAt m'.node n).hasChild j := by
  have fresh : j = a ∨ j = b → ¬ m.Taken l.length j := by
    rintro (rfl | rfl)
    · exact hj.left_fresh
    · exact hj.right_fresh
  have htt' := hj.tt
  rcases (hj.taken j).mp hjt with ht | hab
  · obtain ⟨p, ⟨hp1, hp2, hp3⟩, hpu⟩ := h.oneParent j ht
    have hp : p < m'.tt := by omega
    refine ⟨p, ⟨hp1, hp, (hj.hasChild_iff htt hp j).mpr (.inl ⟨hp2, hp3⟩)⟩, fun n ⟨h1, h2, hc⟩ => ?_⟩
    rcases (hj.hasChild_iff htt h2 j).mp hc with ⟨hn, hc⟩ | ⟨-, hab⟩
    · exact hpu n ⟨h1, hn, hc⟩
    · exact absurd ht (fresh hab)
  · have hnew : m.tt < m'.tt := by omega
    have hle := h.queues.le_th.trans h.queues.th_le
    refine ⟨m.tt, ⟨hle, hnew, (hj.hasChild_iff htt hnew j).mpr (.inr ⟨rfl, hab⟩)⟩,
      fun n ⟨h1, h2, hc⟩ => ?_⟩
    rcases (hj.hasChild_iff htt h2 j).mp hc with ⟨hn, hc⟩ | ⟨hn, -⟩
    · exact absurd (h.childTaken n j h1 hn hc) (fresh hab)
    · exact hn

end

theorem Merge.Inv.step {l : List FreqEntry} {k : Nat} {m : Merge} (h : m.Inv l k)
    (hl : l.length ≤ 128) (hk : k + 1 < l.length) : (m.step l.length).Inv l (k + 1) := by
  have htt := h.tt
  have hcount := h.count
  have htt' : m.tt < 255 := by omega
  obtain ⟨a, b, hj⟩ := Merge.step_joins h.queues (by omega)
  exact {
    queues := hj.queues
    tt := by rw [hj.tt]; omega
    count := by rw [hj.count]; omega
    lastFree := fun _ => by rw [hj.tt]; exact Nat.lt_succ_of_le hj.th_le
    leaves := fun n hn => by rw [hj.nodeAt_old htt' (by omega), h.leaves n hn]
    internal := fun n => h.internal_step hj htt'
    childTaken := fun n j => h.childTaken_step hj htt'
    oneParent := fun j => h.oneParent_step hj htt' }

/-- The loop does not end before its L-1 steps are made (R109). -/
theorem Merge.Inv.not_finished {l : List FreqEntry} {k : Nat} {m : Merge} (h : m.Inv l k)
    (hk : k + 1 < l.length) : m.finished l.length = false := by
  have := h.tt
  have := h.count
  simp only [Merge.finished, Bool.and_eq_false_iff, beq_eq_false_iff_ne]
  omega

theorem Merge.Inv.loop {l : List FreqEntry} (hl : l.length ≤ 128) (fuel : Nat) {k : Nat} {m : Merge}
    (h : m.Inv l k) (hfuel : k + fuel + 1 = l.length) :
    (Merge.loop l.length fuel m).Inv l (l.length - 1) := by
  induction fuel generalizing k m with
  | zero => rwa [show l.length - 1 = k by omega]
  | succ fuel ih =>
    rw [Merge.loop, h.not_finished (by omega)]
    exact ih (h.step hl (by omega)) (by omega)

/-- The whole merge makes L-1 steps (R109). -/
theorem mergeList_inv (node : Vector NodeEntry 255) {l : List FreqEntry} (h1 : 1 ≤ l.length)
    (hl : l.length ≤ 128) : (mergeList node l).Inv l (l.length - 1) :=
  (Merge.inv_begin node hl).loop hl _ (by omega)

/-- Equal symbols stand at equal places of a list of distinct symbols. -/
theorem sym_injective {l : List FreqEntry} (h : (l.map FreqEntry.sym).Nodup) {i j : Nat}
    (hi : i < l.length) (hj : j < l.length) (heq : l[i].sym = l[j].sym) : i = j :=
  (h.getElem_inj_iff (hi := by simpa using hi) (hj := by simpa using hj)).mp (by simpa using heq)

/-- The merge of a list of distinct symbols gives the arena the shape of R109. -/
theorem mergeList_treeShape (node : Vector NodeEntry 255) {l : List FreqEntry} (h2 : 2 ≤ l.length)
    (hl : l.length ≤ 128) (hd : (l.map FreqEntry.sym).Nodup) : TreeShape (mergeList node l).node l.length := by
  have h := mergeList_inv node (by omega) hl
  have htt := h.tt
  have hcount := h.count
  have hlast := h.lastFree (by omega)
  have ⟨hsh, hth, hth'⟩ := h.queues
  refine ⟨h2, hl, fun n hn => ?_, fun i j hi hj heq => ?_, fun n h1 hn => h.internal n h1 (by omega),
    fun k hk => ?_⟩
  · rw [h.leaves n hn]; exact ⟨rfl, rfl, rfl⟩
  · rw [h.leaves i hi, h.leaves j hj] at heq
    exact sym_injective hd hi hj heq
  · have htaken : (mergeList node l).Taken l.length k := by unfold Merge.Taken; omega
    have := h.oneParent k htaken
    rwa [show (mergeList node l).tt = 2 * l.length - 1 by omega] at this

/-! ### The counts of COUNT (R96, R97) -/

/-- The sum of the counts, as R62(a) takes it. -/
def countSum (cnt : Vector Word 128) : Nat := (cnt.toList.map BitVec.toNat).sum

theorem State.countsAgree_iff (s : State) : s.countsAgree ↔ s.total.toNat = countSum s.cnt := Iff.rfl

theorem countSum_replicate_zero : countSum (Vector.replicate 128 0) = 0 := by
  simp [countSum, Vector.toList_replicate]

/-- One occurrence of a symbol more adds 1 to the sum, as long as the sum stays below 2^32. -/
theorem countSum_bump {cnt : Vector Word 128} {x : Sym} (h : countSum cnt + 1 < 2 ^ 32) :
    countSum (bump cnt x) = countSum cnt + 1 := by
  have hx : x.toNat < (cnt.toList.map BitVec.toNat).length := by simpa using x.isLt
  have parts : countSum cnt = ((cnt.toList.map BitVec.toNat).take x.toNat).sum + (countOf cnt x).toNat +
      ((cnt.toList.map BitVec.toNat).drop (x.toNat + 1)).sum := by
    rw [countSum, ← List.sum_take_add_sum_drop _ (x.toNat + 1), List.sum_take_succ _ _ hx]
    simp [countOf]
  have noWrap : (countOf cnt x + 1).toNat = (countOf cnt x).toNat + 1 := by
    rw [BitVec.toNat_add_of_lt (by simp; omega)]; rfl
  have after : countSum (bump cnt x) = ((cnt.toList.map BitVec.toNat).take x.toNat).sum +
      (countOf cnt x + 1).toNat + ((cnt.toList.map BitVec.toNat).drop (x.toNat + 1)).sum := by
    rw [countSum, bump, Vector.toList_set, List.map_set, List.sum_set, if_pos hx]
  omega

theorem countSum_foldl (xs : List Byte) {cnt : Vector Word 128} (h : countSum cnt + xs.length < 2 ^ 32) :
    countSum (xs.foldl (fun cnt b => bump cnt (symOf b)) cnt) = countSum cnt + xs.length := by
  induction xs generalizing cnt with
  | nil => rfl
  | cons b bs ih =>
    rw [List.length_cons] at h ⊢
    have hb : countSum (bump cnt (symOf b)) = countSum cnt + 1 := countSum_bump (by omega)
    rw [List.foldl_cons, ih (by omega), hb]
    omega

/-- The counts of an input add up to its length (R97). -/
theorem countSum_countSymbols {xs : List Byte} (h : xs.length < 2 ^ 32) :
    countSum (countSymbols xs) = xs.length := by
  rw [countSymbols, countSum_foldl xs (by rwa [countSum_replicate_zero, Nat.zero_add]),
    countSum_replicate_zero, Nat.zero_add]

end Sys2Proof.Machine
end

section
/-! PROOFS. What each kind of event of a step can do to the state, said once: a stage of a command, its completion,
an access on the bus. Then one rule, `KeptByEvents.step`, that reduces an invariant of the step to its events. -/

namespace Sys2Proof.Machine

/-! ### Commands as runs of stages -/

/-- The stages that the commands are made of. -/
inductive IsStage : Stage → Prop
  | nop : IsStage nopStage
  | clear : IsStage clearStage
  | count : IsStage countStage
  | sort : IsStage sortStage
  | buildTree : IsStage buildTreeStage
  | buildCodes : IsStage buildCodesStage
  | encode : IsStage encodeStage
  | pack : IsStage packStage
  | unpack : IsStage unpackStage
  | decode : IsStage decodeStage

/-- The runs that stages make from a state. -/
inductive RunsFrom (s : State) : Run → Prop
  | start : RunsFrom s (Run.begin s)
  | stage {r : Run} {f : Stage} (hr : RunsFrom s r) (hf : IsStage f) : RunsFrom s (r.stage f)

theorem RunsFrom.treeStages {s : State} {r : Run} (h : RunsFrom s r) : RunsFrom s r.treeStages := by
  unfold Run.treeStages
  split
  · exact (h.stage .buildTree).stage .buildCodes
  · exact h

/-- Every command is the completion of a run of stages (R141). -/
theorem exec_runsFrom {i : Instr} {s t : State} (h : exec i s = .next t) :
    ∃ r, RunsFrom s r ∧ t = r.complete := by
  have one {f : Stage} (hf : IsStage f) (h : primitive f s = .next t) : ∃ r, RunsFrom s r ∧ t = r.complete := by
    injection h with h
    exact ⟨_, .stage .start hf, h.symm⟩
  cases i with
  | nop => exact one .nop h
  | clear => exact one .clear h
  | count => exact one .count h
  | sort => exact one .sort h
  | buildTree => exact one .buildTree h
  | buildCodes => exact one .buildCodes h
  | encode => exact one .encode h
  | pack => exact one .pack h
  | unpack => exact one .unpack h
  | decode => exact one .decode h
  | encodeAll =>
    injection h with h
    exact ⟨_, ((RunsFrom.start.stage .count).stage .sort).treeStages.stage .encode, h.symm⟩
  | build =>
    injection h with h
    exact ⟨_, (RunsFrom.start.stage .buildTree).stage .buildCodes, h.symm⟩

/-- Everything one more stage of a run can do. -/
theorem Run.stage_cases (r : Run) (f : Stage) : r.stage f = r ∨
    (∃ t, f r.state = .ok t ∧ r.stage f = ⟨t, none⟩) ∨
    (∃ c, f r.state = .error c ∧ r.stage f = ⟨r.state, some c⟩) := by
  obtain ⟨s, _ | e⟩ := r
  · cases hf : f s with
    | ok t => exact .inr (.inl ⟨t, rfl, Run.stage_ok hf⟩)
    | error c => exact .inr (.inr ⟨c, rfl, Run.stage_fail hf⟩)
  · exact .inl rfl

/-- What every successful stage keeps holds of what a run has committed. -/
theorem RunsFrom.keeps {P : State → Prop} {s : State} {r : Run} (h : RunsFrom s r)
    (stage : ∀ {f : Stage} {s t : State}, IsStage f → f s = .ok t → P s → P t) (hs : P s) : P r.state := by
  induction h with
  | start => exact hs
  | @stage r f hr hf ih =>
    rcases Run.stage_cases r f with e | ⟨t, hft, e⟩ | ⟨c, -, e⟩ <;> rw [e]
    · exact ih
    · exact stage hf hft ih
    · exact ih

/-- The completion of a run writes the phase and STATUS only (R141). -/
theorem Run.complete_eq (r : Run) : r.complete = { r.state with
    phase := .idle
    status := { r.state.status with
      done := true, err := r.error.isSome, errCode := r.error.getD .none } } := by
  obtain ⟨s, _ | c⟩ := r <;> rfl

/-! ### The stages -/

/-- A stage that stores the first elements of one buffer, and otherwise writes only lengths and the flags
PAD_FALLBACK and TRAILING. -/
def State.Stores (b : Buffer) (s t : State) : Prop :=
  ∃ l : List Byte, l.length ≤ b.capacity s.params ∧ t = { s with
    mem := s.mem.setAll b.base l
    pkLen := t.pkLen, bitLen := t.bitLen, decLen := t.decLen, bitCnt := t.bitCnt
    status := { s.status with padFallback := t.status.padFallback, trailing := t.status.trailing } }

theorem countStage_ok {s t : State} (h : countStage s = .ok t) :
    t = { s with
      cnt := countSymbols (s.elems .inp s.inLen.toNat)
      total := s.inLen
      status := s.status.setEmpty (s.inLen == 0) } := by
  unfold countStage at h
  split_ifs at h
  injection h with h
  exact h.symm

theorem sortStage_ok {s t : State} (h : sortStage s = .ok t) :
    t = { s with
      slist := t.slist
      slistLen := t.slistLen
      status := { s.status with empty := t.status.empty, degenerate := t.status.degenerate } } := by
  unfold sortStage at h
  split_ifs at h <;> injection h with h <;> subst h <;> rfl

/-- BUILD_TREE succeeds only on a list of 2 to 128 entries with distinct symbols (R104), and then commits its
merge (R108). -/
theorem buildTreeStage_ok {s t : State} (h : buildTreeStage s = .ok t) :
    2 ≤ s.sortedList.length ∧ s.sortedList.length ≤ 128 ∧ (s.sortedList.map FreqEntry.sym).Nodup ∧
    t = { s with
      node := (mergeList s.node s.sortedList).node
      nodeCnt := BitVec.ofNat 32 (mergeList s.node s.sortedList).tt
      root := BitVec.ofNat 8 ((mergeList s.node s.sortedList).tt - 1)
      status := s.status.withNewTree } := by
  have len : s.sortedList.length = min s.slistLen.toNat 128 := by simp [State.sortedList]
  unfold buildTreeStage at h
  split_ifs at h with h2 h128 _ hd
  injection h with h
  exact ⟨by omega, by omega, hd, h.symm⟩

theorem buildCodesStage_ok {s t : State} (h : buildCodesStage s = .ok t) :
    s.status.treeValid = true ∧
    t = { s with code := codeTable s.node s.root, status := s.status.withNewCodes } := by
  unfold buildCodesStage at h
  split_ifs at h with hv
  injection h with h
  exact ⟨hv, h.symm⟩

/-- A packed payload has `packedSize` bytes (R120). -/
theorem packBits_length (b : List Bool) : (packBits b).length = packedSize b.length := by
  rw [packBits, groupBytes_length, header_length]
  omega

theorem commitPacked_stores {s : State} {b : List Bool} (h : packedSize b.length ≤ s.params.maxPk.size) :
    s.Stores .pk (s.commitPacked b) :=
  ⟨packBits b, by rwa [packBits_length], rfl⟩

/-- The validation pass of ENCODE computes the length of the payload. -/
theorem payloadBits_length {code : Vector CodeEntry 128} {xs : List Byte} {p : Nat}
    (h : payloadLength code xs = .ok p) : (payloadBits code xs).length = p := by
  induction xs generalizing p with
  | nil => injection h
  | cons b bs ih =>
    unfold payloadLength at h
    split_ifs at h
    split at h
    · next q hq =>
      injection h with h
      rw [payloadBits, List.flatMap_cons, List.length_append]
      show _ + (payloadBits code bs).length = p
      rw [ih hq, ← h]
      simp [codeBits]
    · cases h

theorem encodeStage_ok {s t : State} (h : encodeStage s = .ok t) : s.Stores .pk t := by
  unfold encodeStage at h
  split_ifs at h
  · injection h with h
    exact h ▸ commitPacked_stores s.params.maxPk.pos
  · split at h
    · cases h
    · next p hp =>
      split_ifs at h with hfit
      injection h with h
      exact h ▸ commitPacked_stores (by rw [payloadBits_length hp]; omega)

theorem packStage_ok {s t : State} (h : packStage s = .ok t) : s.Stores .pk t := by
  unfold packStage at h
  split_ifs at h with _ _ hfit
  injection h with h
  exact h ▸ commitPacked_stores (by simpa using hfit)

theorem unpackStage_ok {s t : State} (h : unpackStage s = .ok t) : s.Stores .bits t := by
  unfold unpackStage at h
  split_ifs at h with _ hfit
  injection h with h
  exact ⟨s.payload.1.map bitChar, (List.length_map _).trans_le (not_lt.mp hfit), by subst h; rfl⟩

theorem decodeStage_ok {s t : State} (h : decodeStage s = .ok t) : s.Stores .dec t := by
  unfold decodeStage at h
  split_ifs at h with _ _ _ hfit
  · injection h with h
    exact ⟨[], Nat.zero_le _, by subst h; rfl⟩
  · injection h with h
    exact ⟨s.decoded.1.map (BitVec.setWidth 8), (List.length_map _).trans_le (not_lt.mp hfit), by subst h; rfl⟩

theorem payloadLength_ne_error_none (code : Vector CodeEntry 128) (xs : List Byte) :
    payloadLength code xs ≠ .error .none := by
  induction xs with
  | nil => simp [payloadLength]
  | cons b bs ih =>
    unfold payloadLength
    split_ifs
    · simp
    · split
      · simp
      · next c hc => rintro ⟨⟩; exact ih hc
    · simp

/-- A failing stage names its error (R143). -/
theorem IsStage.ne_error_none {f : Stage} (hf : IsStage f) (s : State) : f s ≠ .error .none := by
  cases hf with
  | nop => simp [nopStage]
  | clear => simp [clearStage]
  | count => unfold countStage; split_ifs <;> simp
  | sort => unfold sortStage; split_ifs <;> simp
  | buildTree => unfold buildTreeStage; split_ifs <;> simp
  | buildCodes => unfold buildCodesStage; split_ifs <;> simp
  | pack => unfold packStage; split_ifs <;> simp
  | unpack => unfold unpackStage; split_ifs <;> simp
  | decode => unfold decodeStage; split_ifs <;> simp
  | encode =>
    have hlen := payloadLength_ne_error_none s.code (s.elems .inp s.inLen.toNat)
    unfold encodeStage
    split_ifs
    · simp
    · simp
    · split
      · next c hc => rintro ⟨⟩; exact hlen hc
      · split_ifs <;> simp
    · simp

/-! ### The bus -/

/-- A buffer word written by the host changes memory alone. -/
theorem State.setBufferWord_eq (s : State) (b : Buffer) (w : Nat) (v : Word) :
    ∃ m, s.setBufferWord b w v = { s with mem := m } := by
  have lane {u : State} (h : ∃ m, u = { s with mem := m }) (i : Nat) (x : Byte) :
      ∃ m, u.setLane b i x = { s with mem := m } := by
    obtain ⟨m, rfl⟩ := h
    exact State.setLane_eq _ b i x
  exact lane (lane (lane (State.setLane_eq s b _ _) _ _) _ _) _ _

/-- Everything a host write of a mapped word of an idle core can do: it sets a register or an element of
SLIST, it stores a buffer word, it starts a command, it clears bits of STATUS, or it is rejected. -/
theorem writeLoc_cases (s : State) (l : Loc) (v : Word) :
    (∃ ctrl inLen pkLen bitLen slistLen slist, s.writeLoc l v = { s with
      ctrl := ctrl, inLen := inLen, pkLen := pkLen, bitLen := bitLen, slistLen := slistLen, slist := slist }) ∨
    (∃ b w, s.writeLoc l v = s.setBufferWord b w v) ∨
    s.writeLoc l v = s.acceptCommand v ∨ s.writeLoc l v = s.acknowledge v ∨ s.writeLoc l v = s.reject := by
  cases l with
  | reg r =>
    cases r with
    | ctrl | inLen | pkLen | bitLen | slistLen => exact .inl ⟨_, _, _, _, _, _, rfl⟩
    | cmd => exact .inr (.inr (.inl rfl))
    | status => exact .inr (.inr (.inr (.inl rfl)))
    | id | version | decLen | total | nodeCnt | root | bitCnt => exact .inr (.inr (.inr (.inr rfl)))
  | slistSym i | slistLo i | slistHi i => exact .inl ⟨_, _, _, _, _, _, rfl⟩
  | cnt x | node n w | code x w => exact .inr (.inr (.inr (.inr rfl)))
  | buf b w =>
    rw [State.writeLoc]
    split_ifs
    · exact .inr (.inl ⟨b, w, rfl⟩)
    · exact .inr (.inr (.inr (.inr rfl)))

/-! ### Invariants of the step -/

/-- What one has to show of a property for every step to keep it: one clause for each kind of event. -/
structure KeptByEvents (P : State → Prop) : Prop where
  reset    : ∀ s : State, P s.resetEvent
  resets   : ∀ (s : State) (later : List Nat), P s → P { s with resets := later }
  tick     : ∀ (s : State) (w : Word) (left : Nat), s.phase = .busy w (left + 1) → P s →
    P { s with phase := .busy w left }
  stage    : ∀ {f : Stage} {s t : State}, IsStage f → f s = .ok t → P s → P t
  complete : ∀ (s : State) (c : Option ErrCode), c ≠ some .none → P s → P (Run.complete ⟨s, c⟩)
  host     : ∀ (s : State) (host : List HostOp) (reads : List Word) (draws : Nat), P s →
    P { s with host := host, reads := reads, draws := draws }
  reject   : ∀ s : State, P s → P s.reject
  clear    : ∀ (s : State) (v : Word), P s → P (s.acknowledge v)
  write    : ∀ (s : State) (l : Loc) (v : Word), P s → P (s.writeLoc l v)

theorem RunsFrom.error_ne_none {s : State} {r : Run} (h : RunsFrom s r) : r.error ≠ some .none := by
  induction h with
  | start => simp [Run.begin]
  | @stage r f hr hf ih =>
    rcases Run.stage_cases r f with e | ⟨t, -, e⟩ | ⟨c, hc, e⟩ <;> rw [e]
    · exact ih
    · simp
    · intro hn
      injection hn with hn
      exact hf.ne_error_none r.state (hn ▸ hc)

namespace KeptByEvents

variable {P : State → Prop} (hP : KeptByEvents P)
include hP

theorem exec {i : Instr} {s t : State} (h : exec i s = .next t) (hs : P s) : P t := by
  obtain ⟨r, hr, rfl⟩ := exec_runsFrom h
  exact hP.complete _ _ hr.error_ne_none (hr.keeps hP.stage hs)

theorem hostRead {s : State} (addr : Word) (hs : P s) : P (s.hostRead addr).2 := by
  rcases hostRead_cases s addr with e | e | e <;> rw [e]
  · exact hs
  · exact hP.reject s hs
  · exact hP.host s s.host s.reads (s.draws + 1) hs

theorem hostWrite {s : State} (addr v : Word) (hs : P s) : P (s.hostWrite addr v) := by
  rcases hostWrite_cases s addr v with e | e | ⟨-, l, -, e⟩ <;> rw [e]
  · exact hP.reject s hs
  · exact hP.clear s v hs
  · exact hP.write s l v hs

theorem hostTurn {s t : State} (h : hostTurn s = .next t) (hs : P s) : P t := by
  rcases hostTurn_cases h with rfl | ⟨rest, rfl⟩ | ⟨addr, _, rest, -, -, rfl⟩ | ⟨addr, _, v, rest, -, -, rfl⟩
  · exact hs
  · exact hP.host s rest s.reads s.draws hs
  · exact hP.host _ rest _ (s.hostRead addr).2.draws (hP.hostRead addr hs)
  · exact hP.host _ rest (s.hostWrite addr v).reads (s.hostWrite addr v).draws (hP.hostWrite addr v hs)

theorem step {s t : State} (h : step s = .next t) (hs : P s) : P t := by
  rcases step_cases h with ⟨rest, -, rfl⟩ | ⟨later, hcase⟩
  · exact hP.reset _
  · have hs' := hP.resets s later hs
    rcases hcase with ⟨w, i, -, -, hx⟩ | ⟨w, e, -, -, rfl⟩ | ⟨-, ht⟩ | ⟨w, left, hp, ht⟩
    · exact hP.exec hx hs'
    · exact hP.complete _ (some .illegalCmd) (by decide) hs'
    · exact hP.hostTurn ht hs'
    · exact hP.hostTurn ht (hP.tick _ w left hp hs')

end KeptByEvents

end Sys2Proof.Machine
end

section
/-! PROOFS. The three invariants, each shown event by event (R62; R61, R66; R34, R36, R89, R140), the STATUS word
(R31) and the registers as the host writes and reads them (R29 to R31, R43 to R48). -/

namespace Sys2Proof.Machine

/-! ### R62 -/

/-- Everything that R62 speaks of. -/
def State.tables (s : State) :=
  (s.total, s.cnt, s.nodeCnt, s.root, s.node, s.code, s.status.treeValid, s.status.codesValid)

theorem State.R62Holds.congr {s t : State} (hs : s.R62Holds) (h : t.tables = s.tables) : t.R62Holds := by
  simp only [State.tables, Prod.mk.injEq] at h
  obtain ⟨htotal, hcnt, hnodeCnt, hroot, hnode, hcode, htree, hcodes⟩ := h
  refine ⟨?_, ?_, ?_⟩
  · rw [State.countsAgree, htotal, hcnt]; exact hs.counts
  · rw [State.treeAgrees, htree, hnodeCnt, hroot, hnode]; exact hs.tree
  · rw [State.codesAgree, hcodes, htree, hcode, hnode, hroot]; exact hs.codes

/-- With no valid tree and no valid table only R62(a) is left. -/
theorem State.R62Holds.of_not_valid {s : State} (hsum : s.total.toNat = countSum s.cnt)
    (htree : s.status.treeValid = false) (hcodes : s.status.codesValid = false) : s.R62Holds := by
  refine ⟨s.countsAgree_iff.mpr hsum, fun hv => ?_, fun hv => ?_⟩
  · rw [htree] at hv; cases hv
  · rw [hcodes] at hv; cases hv

theorem State.Stores.tables_eq {b : Buffer} {s t : State} (h : s.Stores b t) : t.tables = s.tables := by
  obtain ⟨l, -, e⟩ := h
  rw [e]
  rfl

theorem countStage_r62 {s t : State} (h : countStage s = .ok t) (hs : s.R62Holds) : t.R62Holds := by
  obtain rfl := countStage_ok h
  refine ⟨?_, hs.tree, hs.codes⟩
  rw [State.countsAgree_iff, countSum_countSymbols (by simpa using s.inLen.isLt), State.elems_length]

/-- A new tree meets R62(b), and no table is valid with it. -/
theorem buildTreeStage_r62 {s t : State} (h : buildTreeStage s = .ok t) (hs : s.R62Holds) : t.R62Holds := by
  obtain ⟨h2, hl, hd, rfl⟩ := buildTreeStage_ok h
  have htt := (mergeList_inv s.node (by omega) hl).tt
  refine ⟨hs.counts, fun _ => ⟨s.sortedList.length, ?_, ?_, mergeList_treeShape s.node h2 hl hd⟩,
    fun hc => ?_⟩
  · simp only [BitVec.toNat_ofNat]
    omega
  · simp only [BitVec.toNat_ofNat]
    omega
  · cases hc

theorem stage_r62 {f : Stage} {s t : State} (hf : IsStage f) (h : f s = .ok t) (hs : s.R62Holds) :
    t.R62Holds := by
  cases hf with
  | nop => injection h with h; exact h ▸ hs
  | clear =>
    injection h with h
    subst h
    exact .of_not_valid countSum_replicate_zero.symm rfl rfl
  | count => exact countStage_r62 h hs
  | sort => rw [sortStage_ok h]; exact hs.congr rfl
  | buildTree => exact buildTreeStage_r62 h hs
  | buildCodes =>
    obtain ⟨hv, rfl⟩ := buildCodesStage_ok h
    exact ⟨hs.counts, hs.tree, fun _ => ⟨hv, rfl⟩⟩
  | encode => exact hs.congr (encodeStage_ok h).tables_eq
  | pack => exact hs.congr (packStage_ok h).tables_eq
  | unpack => exact hs.congr (unpackStage_ok h).tables_eq
  | decode => exact hs.congr (decodeStage_ok h).tables_eq

theorem writeLoc_tables (s : State) (l : Loc) (v : Word) : (s.writeLoc l v).tables = s.tables := by
  rcases writeLoc_cases s l v with ⟨_, _, _, _, _, _, e⟩ | ⟨b, w, e⟩ | e | e | e <;> rw [e]
  case inr.inl =>
    obtain ⟨m, e⟩ := s.setBufferWord_eq b w v
    rw [e]
    rfl
  all_goals rfl

theorem resetWith_r62 (p : Params) (e : Nat) : (State.resetWith p e).R62Holds :=
  .of_not_valid countSum_replicate_zero.symm rfl rfl

theorem r62_keptByEvents : KeptByEvents State.R62Holds where
  reset s := (resetWith_r62 s.params (s.epoch + 1)).congr rfl
  resets _ _ hs := hs.congr rfl
  tick _ _ _ _ hs := hs.congr rfl
  stage := stage_r62
  complete s c _ hs := by
    rw [Run.complete_eq]
    exact hs.congr rfl
  host _ _ _ _ hs := hs.congr rfl
  reject _ hs := hs.congr rfl
  clear _ _ hs := hs.congr rfl
  write s l v hs := hs.congr (writeLoc_tables s l v)

/-! ### Memory -/

theorem State.MemoryOk.congr {s t : State} (hs : s.MemoryOk) (hm : t.mem = s.mem) (hp : t.params = s.params) :
    t.MemoryOk := by
  refine ⟨?_, ?_⟩
  · rw [hm]; exact hs.wf
  · rw [hm, hp]; exact hs.inside

/-- A stage stores within the capacity of its buffer (R61). -/
theorem State.Stores.memoryOk {b : Buffer} {s t : State} (h : s.Stores b t) (hs : s.MemoryOk) : t.MemoryOk := by
  obtain ⟨l, hl, e⟩ := h
  rw [e]
  refine ⟨Memory.setAll_wf l hs.wf _, fun c hc => ?_⟩
  rcases Memory.mem_setAll l hc with ⟨h1, h2⟩ | hc
  · exact ⟨b, h1, h2.trans_le (Nat.add_le_add_left hl _)⟩
  · exact hs.inside c hc

/-- The host stores a lane only below the capacity of its buffer (R67). -/
theorem State.MemoryOk.setLane {s : State} (hs : s.MemoryOk) (b : Buffer) (i : Nat) (v : Byte) :
    (s.setLane b i v).MemoryOk := by
  unfold State.setLane
  split
  · next hi =>
    refine ⟨Memory.set_wf hs.wf _ _, fun c hc => ?_⟩
    rcases Memory.mem_set hc with rfl | hc
    · exact ⟨b, Nat.le_add_right _ _, Nat.add_lt_add_left hi _⟩
    · exact hs.inside c hc
  · exact hs

theorem stage_memoryOk {f : Stage} {s t : State} (hf : IsStage f) (h : f s = .ok t) (hs : s.MemoryOk) :
    t.MemoryOk := by
  cases hf with
  | nop | clear => injection h with h; subst h; exact hs.congr rfl rfl
  | count => rw [countStage_ok h]; exact hs.congr rfl rfl
  | sort => rw [sortStage_ok h]; exact hs.congr rfl rfl
  | buildTree =>
    obtain ⟨-, -, -, rfl⟩ := buildTreeStage_ok h
    exact hs.congr rfl rfl
  | buildCodes =>
    obtain ⟨-, rfl⟩ := buildCodesStage_ok h
    exact hs.congr rfl rfl
  | encode => exact (encodeStage_ok h).memoryOk hs
  | pack => exact (packStage_ok h).memoryOk hs
  | unpack => exact (unpackStage_ok h).memoryOk hs
  | decode => exact (decodeStage_ok h).memoryOk hs

theorem writeLoc_memoryOk {s : State} (l : Loc) (v : Word) (hs : s.MemoryOk) : (s.writeLoc l v).MemoryOk := by
  rcases writeLoc_cases s l v with ⟨_, _, _, _, _, _, e⟩ | ⟨b, w, e⟩ | e | e | e <;> rw [e]
  case inr.inl => exact (((hs.setLane b _ _).setLane b _ _).setLane b _ _).setLane b _ _
  all_goals exact hs.congr rfl rfl

theorem resetWith_memoryOk (p : Params) (e : Nat) : (State.resetWith p e).MemoryOk :=
  ⟨List.Pairwise.nil, fun _ hc => absurd hc List.not_mem_nil⟩

theorem memoryOk_keptByEvents : KeptByEvents State.MemoryOk where
  reset s := (resetWith_memoryOk s.params (s.epoch + 1)).congr rfl rfl
  resets _ _ hs := hs.congr rfl rfl
  tick _ _ _ _ hs := hs.congr rfl rfl
  stage := stage_memoryOk
  complete s c _ hs := by
    rw [Run.complete_eq]
    exact hs.congr rfl rfl
  host _ _ _ _ hs := hs.congr rfl rfl
  reject _ hs := hs.congr rfl rfl
  clear _ _ hs := hs.congr rfl rfl
  write _ l v hs := writeLoc_memoryOk l v hs

/-! ### Completion fields -/

/-- Everything that the agreement of the completion fields speaks of. -/
def State.completion (s : State) := (s.phase, s.status.done, s.status.err, s.status.errCode)

theorem State.CompletionFieldsOk.congr {s t : State} (hs : s.CompletionFieldsOk)
    (h : t.completion = s.completion) : t.CompletionFieldsOk := by
  simp only [State.completion, Prod.mk.injEq] at h
  obtain ⟨hphase, hdone, herr, hcode⟩ := h
  refine ⟨?_, ?_, ?_⟩
  · rw [State.busy, hphase, hdone, herr, hcode]; exact hs.busy
  · rw [herr, hcode]; exact hs.err
  · rw [hphase]; exact hs.atOnce

/-- In an idle core only ERR and its code have to agree. -/
theorem State.CompletionFieldsOk.of_idle {s : State} (hp : s.phase = .idle)
    (herr : s.status.err = true → s.status.errCode ≠ .none) : s.CompletionFieldsOk := by
  refine ⟨fun hb => ?_, herr, fun w left e hw => ?_⟩
  · simp [State.busy, hp, Phase.isBusy] at hb
  · rw [hp] at hw; cases hw

theorem State.Stores.completion_eq {b : Buffer} {s t : State} (h : s.Stores b t) :
    t.completion = s.completion := by
  obtain ⟨l, -, e⟩ := h
  rw [e]
  rfl

/-- No stage writes the completion fields: only the completion does (R141). -/
theorem stage_completion {f : Stage} {s t : State} (hf : IsStage f) (h : f s = .ok t) :
    t.completion = s.completion := by
  cases hf with
  | nop | clear => injection h with h; subst h; rfl
  | count => rw [countStage_ok h]; rfl
  | sort => rw [sortStage_ok h]; rfl
  | buildTree =>
    obtain ⟨-, -, -, rfl⟩ := buildTreeStage_ok h
    rfl
  | buildCodes =>
    obtain ⟨-, rfl⟩ := buildCodesStage_ok h
    rfl
  | encode => exact (encodeStage_ok h).completion_eq
  | pack => exact (packStage_ok h).completion_eq
  | unpack => exact (unpackStage_ok h).completion_eq
  | decode => exact (decodeStage_ok h).completion_eq

/-- One turn less of the latency; an illegal word has none (R89). -/
theorem State.CompletionFieldsOk.tick {s : State} {w : Word} {left : Nat} (hp : s.phase = .busy w (left + 1))
    (hs : s.CompletionFieldsOk) : ({ s with phase := .busy w left } : State).CompletionFieldsOk := by
  refine ⟨fun _ => hs.busy (by rw [State.busy, hp]; rfl), hs.err, fun w' left' e hw hd => ?_⟩
  injection hw with hw _
  exact absurd (hs.atOnce w (left + 1) e hp (hw ▸ hd)) (Nat.succ_ne_zero left)

theorem State.CompletionFieldsOk.acknowledge {s : State} (v : Word) (hs : s.CompletionFieldsOk) :
    (s.acknowledge v).CompletionFieldsOk := by
  refine ⟨fun hb => ?_, fun he => hs.err (Bool.and_eq_true_iff.mp he).1, hs.atOnce⟩
  obtain ⟨hdone, herr, hcode⟩ := hs.busy hb
  exact ⟨Bool.and_eq_false_imp.mpr (by simp [hdone]), Bool.and_eq_false_imp.mpr (by simp [herr]), hcode⟩

/-- The start of a command clears the completion fields, and gives an illegal word no latency (R89, R140). -/
theorem acceptCommand_completionFieldsOk (s : State) (w : Word) : (s.acceptCommand w).CompletionFieldsOk := by
  refine ⟨fun _ => ⟨rfl, rfl, rfl⟩, fun he => absurd he Bool.false_ne_true, fun w' left e hw hd => ?_⟩
  injection hw with hw hl
  subst hw
  rw [← hl, State.latencyOf_error hd]

theorem writeLoc_completionFieldsOk {s : State} (l : Loc) (v : Word) (hs : s.CompletionFieldsOk) :
    (s.writeLoc l v).CompletionFieldsOk := by
  rcases writeLoc_cases s l v with ⟨_, _, _, _, _, _, e⟩ | ⟨b, w, e⟩ | e | e | e <;> rw [e]
  · exact hs.congr rfl
  · obtain ⟨m, e⟩ := s.setBufferWord_eq b w v
    rw [e]
    exact hs.congr rfl
  · exact acceptCommand_completionFieldsOk s v
  · exact hs.acknowledge v
  · exact hs.congr rfl

/-- A completion leaves ERR = 1 only with a code (R141). -/
theorem complete_completionFieldsOk {r : Run} (h : r.error ≠ some .none) : r.complete.CompletionFieldsOk := by
  rw [Run.complete_eq]
  refine .of_idle rfl fun he => ?_
  obtain ⟨s, _ | c⟩ := r
  · cases he
  · exact fun hn => h (congrArg some hn)

theorem resetWith_completionFieldsOk (p : Params) (e : Nat) : (State.resetWith p e).CompletionFieldsOk :=
  .of_idle rfl fun he => absurd he Bool.false_ne_true

theorem completionFieldsOk_keptByEvents : KeptByEvents State.CompletionFieldsOk where
  reset s := (resetWith_completionFieldsOk s.params (s.epoch + 1)).congr rfl
  resets _ _ hs := hs.congr rfl
  tick _ _ _ hp hs := hs.tick hp
  stage hf h hs := hs.congr (stage_completion hf h)
  complete _ _ hc _ := complete_completionFieldsOk hc
  host _ _ _ _ hs := hs.congr rfl
  reject _ hs := hs.congr rfl
  clear _ v hs := hs.acknowledge v
  write _ l v hs := writeLoc_completionFieldsOk l v hs

/-! ### STATUS, and the registers on the bus -/

/-- The bits of the STATUS word, bit 0 first (R31). -/
def State.statusBits (s : State) : List Bool :=
  [s.busy, s.status.done, s.status.err, s.status.accessErr,
    s.status.errCode.number.getLsbD 0, s.status.errCode.number.getLsbD 1,
    s.status.errCode.number.getLsbD 2, s.status.errCode.number.getLsbD 3,
    s.status.empty, s.status.degenerate, s.status.padFallback, s.status.trailing,
    s.status.treeValid, s.status.codesValid]

theorem statusWord_getLsbD (s : State) (i : Nat) : s.statusWord.getLsbD i = s.statusBits.getD i false := by
  rw [State.statusWord, Status.word]
  show BitVec.getLsbD (w := 18 + 1 + 1 + 1 + 1 + 1 + 1 + 4 + 1 + 1 + 1 + 1) _ i = _
  simp only [BitVec.getLsbD_append]
  by_cases h : i < 14
  · interval_cases i <;> simp [State.statusBits]
  · obtain ⟨j, rfl⟩ := Nat.exists_eq_add_of_le' (not_lt.mp h)
    rw [List.getD_eq_default _ _ (Nat.le_add_left 14 j)]
    simp

theorem locAt_reg (p : Params) (r : HostReg) : locAt p ((Loc.reg r).addr p) = some (.reg r) := by
  have inRange : ∀ b w, Loc.reg r = .buf b w → w < (b.capacity p + 3) / 4 := fun _ _ h => by cases h
  rw [locAt, busOffset_addr _ _ (Loc.offset_lt _ p inRange).1, locOf_offset p _ inRange]

/-- A host write to STATUS is honoured in either phase (R31, R163). -/
theorem hostWrite_status (s : State) (v : Word) :
    s.hostWrite ((Loc.reg .status).addr s.params) v = s.acknowledge v := by
  rw [State.hostWrite, locAt_reg]
  simp [State.writeLoc, State.writeReg]

theorem hostWrite_reg_idle {s : State} (h : s.phase = .idle) (r : HostReg) (v : Word) :
    s.hostWrite ((Loc.reg r).addr s.params) v = s.writeReg r v := by
  rw [State.hostWrite, locAt_reg]
  simp [State.busy, h, Phase.isBusy, State.writeLoc]

theorem hostRead_reg_idle {s : State} (h : s.phase = .idle) (r : HostReg) :
    s.hostRead ((Loc.reg r).addr s.params) = (s.readReg r, s) :=
  hostRead_mapped (locAt_reg s.params r) (.inl (by rw [State.busy, h]; rfl))

/-- CTRL keeps bits 1:0 of what the host writes (R29, R52). -/
theorem ctrlWord_ofWord (v : Word) : (Ctrl.ofWord v).word = v &&& 3 := by
  apply BitVec.eq_of_getLsbD_eq
  intro i hi
  rw [BitVec.getLsbD_and, Ctrl.word]
  show BitVec.getLsbD (w := 30 + 1 + 1) _ i = _
  simp only [BitVec.getLsbD_append, Ctrl.ofWord]
  match i with
  | 0 => simp
  | 1 => simp
  | i + 2 => simp [BitVec.getLsbD, Nat.testBit_succ]

end Sys2Proof.Machine

open Sys2Proof Sys2Proof.Machine

/-- Settles O58: each kind of event keeps the three; COUNT by the sum of its counts, BUILD_TREE
by the shape of its merge. -/
theorem everyStepKeepsR62 : Obligations.EveryStepKeepsR62 :=
  fun _ _ hs h => r62_keptByEvents.step h hs

/-- Settles O59: each kind of event keeps it; a command stores no more than the capacity that it
checked, the host no lane beyond it. -/
theorem everyStepKeepsMemoryOk : Obligations.EveryStepKeepsMemoryOk :=
  fun _ _ hs h => memoryOk_keptByEvents.step h hs

/-- Settles O60: no stage writes the completion fields, a start clears them, and a failing stage names its error. -/
theorem everyStepKeepsCompletionFields : Obligations.EveryStepKeepsCompletionFields :=
  fun _ _ hs h => completionFieldsOk_keptByEvents.step h hs

/-- Settles O57: a reset leaves zero counts, no valid tree or table, no stored byte and an idle core without ERR. -/
theorem resetMeetsTheInvariants : Obligations.ResetMeetsTheInvariants :=
  fun p e => ⟨resetWith_r62 p e, resetWith_memoryOk p e, resetWith_completionFieldsOk p e⟩

/-- Settles O13: STATUS is at its address of the map, and honours the write in either phase. -/
theorem statusWriteClearsBits : Obligations.StatusWriteClearsBits :=
  fun s v => hostWrite_status s v

/-- Settles O19: each register is at its address of the map, and an idle core reads what it has written. -/
theorem registerWritesReadBack : Obligations.RegisterWritesReadBack := by
  intro s v h
  have write (r : HostReg) := hostWrite_reg_idle h r v
  have read (r : HostReg) (hr : (s.writeReg r v).phase = .idle) := hostRead_reg_idle hr r
  have ctrl : s.hostWrite (busBase s.params + 0x008) v = { s with ctrl := Ctrl.ofWord v } := write .ctrl
  refine ⟨ctrl, ?_, ⟨write .inLen, read .inLen h⟩, ⟨write .pkLen, read .pkLen h⟩,
    ⟨write .bitLen, read .bitLen h⟩, write .slistLen, read .slistLen h⟩
  rw [ctrl, ← ctrlWord_ofWord]
  exact read .ctrl h

/-- Settles O11: the bits of the STATUS word, in order, are those of `State.statusBits`. -/
theorem statusWordFields : Obligations.StatusWordFields := by
  refine ⟨by decide, fun s => ?_⟩
  have bit (i : Nat) := statusWord_getLsbD s i
  refine ⟨bit 0, bit 1, bit 2, bit 3, ?_, bit 8, bit 9, bit 10, bit 11, bit 12, bit 13, ?_⟩
  · apply BitVec.eq_of_getLsbD_eq
    intro i hi
    rw [BitVec.getLsbD_extractLsb', bit]
    interval_cases i <;> rfl
  · apply BitVec.eq_of_getLsbD_eq
    intro i hi
    rw [BitVec.getLsbD_extractLsb', bit, List.getD_eq_default _ _ (Nat.le_add_right 14 i)]
    simp
end

section
/-! PROOFS. The address map said for addresses, what an access to each kind of address does, the words of the tables
and of the buffers as the host reads and writes them, and a turn of the host in a running command (20_memory.md). -/

namespace Sys2Proof.Machine

/-! ### The address map -/

/-- A word of a buffer window is below ceil(MAX/4) of its buffer (R66). -/
def Loc.InRange (p : Params) (l : Loc) : Prop := ∀ b w, l = .buf b w → w < (b.capacity p + 3) / 4

theorem Loc.inRange_of_ne_buf {p : Params} {l : Loc} (h : ∀ b w, l ≠ .buf b w) : l.InRange p :=
  fun b w e => absurd e (h b w)

theorem locAt_addr {p : Params} {l : Loc} (h : l.InRange p) : locAt p (l.addr p) = some l := by
  rw [locAt, busOffset_addr l p (l.offset_lt p h).1, locOf_offset p l h]

theorem addr_of_locAt {p : Params} {addr : Word} {l : Loc} (h : locAt p addr = some l) :
    addr = l.addr p ∧ l.InRange p := by
  obtain ⟨hoff, hrange⟩ := locOf_inv p (busOffset p addr) l h
  refine ⟨?_, hrange⟩
  rw [Loc.addr, hoff, busOffset, BitVec.ofNat_toNat, BitVec.setWidth_eq, BitVec.add_comm, BitVec.sub_add_cancel]

/-! ### Accesses by the kind of their address -/

theorem hostRead_unmapped {s : State} {addr : Word} (h : locAt s.params addr = none) :
    s.hostRead addr = (0, s.reject) := by
  rw [State.hostRead, h]

theorem hostWrite_unmapped {s : State} {addr : Word} (h : locAt s.params addr = none) (v : Word) :
    s.hostWrite addr v = s.reject := by
  rw [State.hostWrite, h]

/-- During BUSY a word outside R81's list reads as a fresh free value. -/
theorem hostRead_free {s : State} {addr : Word} {l : Loc} (hl : locAt s.params addr = some l)
    (hb : s.busy = true) (h : l.readableWhenBusy = false) :
    s.hostRead addr = (Config.freeRead s.draws, { s with draws := s.draws + 1 }) := by
  rw [State.hostRead, hl]
  exact if_pos (by rw [hb, h]; rfl)

/-- The list of R81. -/
theorem Loc.readableWhenBusy_iff (l : Loc) : l.readableWhenBusy = true ↔
    l ∈ [.reg .id, .reg .version, .reg .ctrl, .reg .cmd, .reg .status] := by
  cases l with
  | reg r => cases r <;> simp [Loc.readableWhenBusy]
  | cnt | slistSym | slistLo | slistHi | node | code | buf => simp [Loc.readableWhenBusy]

/-- A word whose write an idle core rejects rejects it in either phase (R76, R163). -/
theorem hostWrite_rejected {s : State} {addr v : Word} {l : Loc} (hl : locAt s.params addr = some l)
    (hne : l ≠ .reg .status) (h : s.writeLoc l v = s.reject) : s.hostWrite addr v = s.reject := by
  rw [State.hostWrite, hl]
  simp [hne, h]

theorem hostWrite_idle {s : State} {l : Loc} (hp : s.phase = .idle) (h : l.InRange s.params) (v : Word) :
    s.hostWrite (l.addr s.params) v = s.writeLoc l v := by
  rw [State.hostWrite, locAt_addr h]
  exact if_neg (by simp [State.busy, hp, Phase.isBusy])

/-! ### Reads by offset -/

/-- A mapped word reads as its value at its offset, in a phase in which it is readable (R77, R81). -/
theorem State.reads_of_offset {s : State} {off : Nat} {v : Word} (l : Loc) (hoff : l.offset = off)
    (hv : s.readLoc l = v) (hl : ∀ b w, l ≠ .buf b w) (h : s.busy = false ∨ l.readableWhenBusy = true) :
    s.Reads off v := by
  subst hoff hv
  exact hostRead_mapped (locAt_addr (Loc.inRange_of_ne_buf hl)) h

theorem Ctrl.word_eq_ofNat (c : Ctrl) : c.word = BitVec.ofNat 32 (c.ieDone.toNat + 2 * c.ieErr.toNat) := by
  obtain ⟨d, e⟩ := c
  cases d <;> cases e <;> rfl

/-- Word 0 of a NODE element: LEAF in bit 31, SYM in bits 6:0 (R69). -/
theorem NodeEntry.word_zero (e : NodeEntry) :
    e.word 0 = BitVec.ofNat 32 (2 ^ 31 * e.leaf.toNat + e.sym.toNat) := by
  have := e.leaf.toNat_le
  apply BitVec.eq_of_toNat_eq
  show (BitVec.ofBool e.leaf ++ 0#24 ++ e.sym : BitVec (1 + 24 + 7)).toNat = _
  rw [BitVec.toNat_append, ← Nat.shiftLeft_add_eq_or_of_lt e.sym.isLt, BitVec.toNat_append,
    ← Nat.shiftLeft_add_eq_or_of_lt (0#24).isLt]
  simp only [BitVec.toNat_ofBool, BitVec.toNat_ofNat, Nat.shiftLeft_eq]
  omega

/-- Word 1 of a NODE element: LEFT in bits 7:0, RIGHT in bits 15:8 (R69). -/
theorem NodeEntry.word_one (e : NodeEntry) :
    e.word 1 = BitVec.ofNat 32 (e.left.toNat + 2 ^ 8 * e.right.toNat) := by
  apply BitVec.eq_of_toNat_eq
  show (0#8 ++ 0#8 ++ e.right ++ e.left : BitVec 32).toNat = _
  rw [append_bytes_toNat]
  simp only [BitVec.toNat_ofNat]
  omega

/-- Words 1 to 4 of a CODE element are the quarters of its bits (R70). -/
theorem CodeEntry.word_succ (e : CodeEntry) (k : Fin 4) : e.word k.succ = e.bits.extractLsb' (32 * k) 32 := by
  match k with
  | 0 | 1 | 2 | 3 => rfl

theorem statusRegistersRead (s : State) : s.StatusRegistersRead := by
  have read (r : HostReg) (hr : (Loc.reg r).readableWhenBusy = true) : s.Reads r.offset (s.readReg r) :=
    State.reads_of_offset (.reg r) rfl rfl (by simp) (.inr hr)
  exact ⟨read .id rfl, read .version rfl, s.ctrl.word_eq_ofNat ▸ read .ctrl rfl, read .cmd rfl, read .status rfl⟩

theorem lengthRegistersRead {s : State} (h : s.busy = false) : s.LengthRegistersRead := by
  have read (r : HostReg) : s.Reads r.offset (s.readReg r) :=
    State.reads_of_offset (.reg r) rfl rfl (by simp) (.inl h)
  exact ⟨read .inLen, read .pkLen, read .bitLen, read .decLen, read .total, read .slistLen, read .nodeCnt,
    BitVec.ofNat_toNat 32 s.root ▸ read .root, read .bitCnt⟩

theorem tablesRead {s : State} (h : s.busy = false) : s.TablesRead where
  cnt x := State.reads_of_offset (.cnt x) rfl rfl (by simp) (.inl h)
  slistSym i := State.reads_of_offset (.slistSym i) rfl (BitVec.ofNat_toNat 32 s.slist[i].sym).symm (by simp) (.inl h)
  slistLo i := State.reads_of_offset (.slistLo i) rfl rfl (by simp) (.inl h)
  slistHi i := State.reads_of_offset (.slistHi i) rfl rfl (by simp) (.inl h)
  nodeLeaf n := State.reads_of_offset (.node n 0) rfl s.node[n].word_zero (by simp) (.inl h)
  nodeChild n := State.reads_of_offset (.node n 1) (by rw [Loc.offset]; omega) s.node[n].word_one (by simp) (.inl h)
  nodeLo n := State.reads_of_offset (.node n 2) (by rw [Loc.offset]; omega) rfl (by simp) (.inl h)
  nodeHi n := State.reads_of_offset (.node n 3) (by rw [Loc.offset]; omega) rfl (by simp) (.inl h)
  codeLen x := State.reads_of_offset (.code x 0) rfl (BitVec.ofNat_toNat 32 s.code[x].len).symm (by simp) (.inl h)
  codeBits x k := State.reads_of_offset (.code x k.succ) (by rw [Loc.offset, Fin.val_succ]; omega)
    (s.code[x].word_succ k) (by simp) (.inl h)

/-! ### The words of SLIST and of the buffers -/

/-- Lane `j` of a buffer word (R67). -/
theorem State.extract_bufferWord (s : State) (b : Buffer) (w : Nat) {j : Nat} (hj : j < 4) :
    (s.bufferWord b w).extractLsb' (8 * j) 8 = s.lane b (4 * w + j) := by
  obtain ⟨h0, h1, h2, h3⟩ := extract_append_bytes (s.lane b (4 * w + 3)) (s.lane b (4 * w + 2))
    (s.lane b (4 * w + 1)) (s.lane b (4 * w))
  match j with
  | 0 => exact h0
  | 1 => exact h1
  | 2 => exact h2
  | 3 => exact h3

theorem State.setLane_params (s : State) (b : Buffer) (i : Nat) (v : Byte) : (s.setLane b i v).params = s.params := by
  obtain ⟨m, e⟩ := s.setLane_eq b i v
  rw [e]

/-- RAM after a host write of a buffer word, lane 3 first (R67). -/
theorem State.ram_setBufferWord (s : State) (b : Buffer) (w : Nat) (v : Word) (a : Nat) :
    (s.setBufferWord b w v).ram a =
      if a = b.base + (4 * w + 3) ∧ 4 * w + 3 < b.capacity s.params then v.extractLsb' 24 8
      else if a = b.base + (4 * w + 2) ∧ 4 * w + 2 < b.capacity s.params then v.extractLsb' 16 8
      else if a = b.base + (4 * w + 1) ∧ 4 * w + 1 < b.capacity s.params then v.extractLsb' 8 8
      else if a = b.base + 4 * w ∧ 4 * w < b.capacity s.params then v.extractLsb' 0 8
      else s.ram a := by
  simp only [State.setBufferWord, State.ram_setLane, State.setLane_params]

/-- A lane below the capacity is stored (R67). -/
theorem State.elem_setBufferWord (s : State) (b : Buffer) (w : Nat) (v : Word) {j : Nat} (hj : j < 4)
    (hcap : 4 * w + j < b.capacity s.params) :
    (s.setBufferWord b w v).elem b (4 * w + j) = v.extractLsb' (8 * j) 8 := by
  rw [State.elem, State.ram_setBufferWord]
  match j with
  | 0 => simp [show 4 * w < b.capacity s.params from hcap]
  | 1 | 2 | 3 => simp [hcap]

/-- Every byte but the lanes below the capacity is as before (R67). -/
theorem State.ram_setBufferWord_other (s : State) (b : Buffer) (w : Nat) (v : Word) {a : Nat}
    (h : ¬ (b.base + 4 * w ≤ a ∧ a < b.base + 4 * w + 4 ∧ a < b.base + b.capacity s.params)) :
    (s.setBufferWord b w v).ram a = s.ram a := by
  rw [State.ram_setBufferWord, if_neg (by omega), if_neg (by omega), if_neg (by omega), if_neg (by omega)]

theorem writeLoc_buf {s : State} {b : Buffer} (hb : b ≠ .dec) (w : Nat) (v : Word) :
    s.writeLoc (.buf b w) v = s.setBufferWord b w v := by
  cases b with
  | inp | pk | bits => rfl
  | dec => exact absurd rfl hb

/-! ### A turn of the host in a running command -/

theorem stepNoReset_busy {s : State} {w : Word} {left : Nat} (hp : s.phase = .busy w (left + 1)) :
    stepNoReset s = hostTurn { s with phase := .busy w left } := by
  rw [stepNoReset, hp]

/-- A turn of the host during BUSY changes only the W1C bits of STATUS and the host's own progress (R80, R163). -/
theorem hostTurn_busy {s t : State} (hb : s.busy = true) (h : hostTurn s = .next t) :
    t = { s with
      status := { s.status with
        done := t.status.done, err := t.status.err, accessErr := t.status.accessErr }
      host := t.host, reads := t.reads, draws := t.draws } := by
  rcases hostTurn_cases h with rfl | ⟨rest, rfl⟩ | ⟨addr, _, rest, -, -, rfl⟩ | ⟨addr, _, v, rest, -, -, rfl⟩
  · rfl
  · rfl
  · rcases hostRead_cases s addr with e | e | e <;> rw [e] <;> rfl
  · rcases hostWrite_cases s addr v with e | e | ⟨hidle, -⟩
    · rw [e]; rfl
    · rw [e]; rfl
    · rw [hb] at hidle; cases hidle

end Sys2Proof.Machine

open Sys2Proof Sys2Proof.Machine

/-- Settles O7: such a step is a turn of the host in a running command. -/
theorem busyTurnsKeepTheOperands : Obligations.BusyTurnsKeepTheOperands := by
  intro s t w left later hp hr h
  have turn : hostTurn { s with resets := later, phase := .busy w left } = .next t := by
    rw [← h, step_noResetNow hr, stepNoReset_busy (s := { s with resets := later }) hp]
  exact hostTurn_busy rfl turn

/-- Settles O14: the map finds each word at its own offset, and nothing else there. -/
theorem addressMapIsExact : Obligations.AddressMapIsExact :=
  fun _ _ _ => ⟨addr_of_locAt, fun ⟨haddr, hrange⟩ => haddr ▸ locAt_addr hrange⟩

/-- Settles O15: none of these addresses is a mapped word's. -/
theorem unmappedAccessesAreRejected : Obligations.UnmappedAccessesAreRejected := by
  intro s addr v h
  have unmapped : locAt s.params addr = none := by
    rcases h with h | h | h
    · exact locAt_eq_none _ _ (.inl h)
    · exact locAt_eq_none _ _ (.inr h)
    · exact h
  exact ⟨hostRead_unmapped unmapped, hostWrite_unmapped unmapped v⟩

/-- Settles O16: an idle core rejects a write to each of these words, a busy one to every word but STATUS. -/
theorem readOnlyLocationsRejectWrites : Obligations.ReadOnlyLocationsRejectWrites := by
  intro s l addr v hl h
  rcases h with h | ⟨x, rfl⟩ | ⟨n, w, rfl⟩ | ⟨x, w, rfl⟩ | ⟨w, rfl⟩
  · simp only [List.mem_cons, List.not_mem_nil, or_false] at h
    rcases h with rfl | rfl | rfl | rfl | rfl | rfl | rfl <;> exact hostWrite_rejected hl (by decide) rfl
  all_goals exact hostWrite_rejected hl (by simp) rfl

/-- Settles O18: each word is at its offset of the map; a mapped read answers the value or, during BUSY and outside
R81's list, a free value. -/
theorem readsHaveNoOtherEffect : Obligations.ReadsHaveNoOtherEffect := by
  intro s
  refine ⟨statusRegistersRead s, fun hb => ⟨lengthRegistersRead hb, tablesRead hb⟩, fun addr l hl => ?_⟩
  rw [← Loc.readableWhenBusy_iff, Bool.not_eq_true]
  have value := hostRead_mapped (s := s) hl
  have free := hostRead_free (s := s) hl
  refine ⟨?_, value, free⟩
  by_cases h : s.busy = false ∨ l.readableWhenBusy = true
  · rw [value h]
  · rw [not_or, Bool.not_eq_false, Bool.not_eq_true] at h
    rw [free h.1 h.2]

/-- Settles O20: the write replaces one element, and joins the half of its probability that it keeps with the new one. -/
theorem slistWordsAreWrittenAlone : Obligations.SlistWordsAreWrittenAlone := by
  intro s i v hp
  have write (l : Loc) (hl : ∀ b w, l ≠ .buf b w) := hostWrite_idle hp (Loc.inRange_of_ne_buf hl) v
  have other (e : FreqEntry) (j : Fin 128) (hj : j ≠ i) : (s.slist.set i e)[j] = s.slist[j] :=
    Vector.getElem_set_ne _ _ (fun h => hj (Fin.ext h.symm))
  refine ⟨⟨_, write (.slistSym i) (by simp), rfl, ?_, ?_, other _⟩,
    ⟨_, write (.slistLo i) (by simp), rfl, ?_, ?_, ?_, other _⟩,
    ⟨_, write (.slistHi i) (by simp), rfl, ?_, ?_, ?_, other _⟩⟩
  all_goals simp [State.writeLoc, extract_append_low, extract_append_high]

/-- Settles O21: a read joins the lanes, and a write stores each lane below the capacity. -/
theorem bufferWordsAreLittleEndian : Obligations.BufferWordsAreLittleEndian := by
  refine ⟨fun s b w j hj => s.extract_bufferWord b w hj, fun s b w v hp hb hw => ?_⟩
  have range : (Loc.buf b w).InRange s.params := fun _ _ e => by
    cases e
    exact hw
  refine ⟨s.setBufferWord b w v, ?_, ?_, fun j => s.elem_setBufferWord b w v, fun a => s.ram_setBufferWord_other b w v⟩
  · rw [hostWrite_idle hp range, writeLoc_buf hb]
  · obtain ⟨m, e⟩ := s.setBufferWord_eq b w v
    rw [e]
end

section
/-! PROOFS. The decoder and the encoder as inverses, the illegal words by their fields, and what a step without a
reset does in each phase (30_encoding.md R86 to R94). -/

namespace Sys2Proof

/-! ### The two fields of a command word (R86) -/

theorem rsvdField_append_opcodeField (w : Word) : (rsvdField w ++ opcodeField w : Word) = w := by
  apply BitVec.eq_of_toNat_eq
  rw [BitVec.toNat_append, ← Nat.shiftLeft_add_eq_or_of_lt (opcodeField w).isLt]
  simp only [rsvdField, opcodeField, BitVec.extractLsb'_toNat, Nat.shiftRight_eq_div_pow, Nat.shiftLeft_eq]
  omega

/-- A word is its two fields. -/
theorem word_eq_iff_fields (v w : Word) : v = w ↔ rsvdField v = rsvdField w ∧ opcodeField v = opcodeField w := by
  refine ⟨fun h => h ▸ ⟨rfl, rfl⟩, fun ⟨hrsvd, hop⟩ => ?_⟩
  rw [← rsvdField_append_opcodeField v, hrsvd, hop, rsvdField_append_opcodeField]

theorem rsvdField_eq_zero_iff (w : Word) : rsvdField w = 0 ↔ w.toNat < 0x100 := by
  rw [← BitVec.toNat_inj, rsvdField, BitVec.extractLsb'_toNat, Nat.shiftRight_eq_div_pow]
  show _ = 0 ↔ _
  omega

theorem opcodeField_toNat (w : Word) : (opcodeField w).toNat = w.toNat % 0x100 := by
  rw [opcodeField, BitVec.extractLsb'_toNat, Nat.shiftRight_zero]

/-! ### The opcode map (R88, R90) -/

@[simp] theorem rsvdField_encode (i : Instr) : rsvdField (encode i) = 0 := by
  cases i <;> rfl

/-- The rows of R88 have different opcodes, and the map answers each row at its opcode. -/
theorem decodeOpcode_eq_some_iff (op : Byte) (i : Instr) :
    decodeOpcode op = some i ↔ op = opcodeField (encode i) := by
  constructor
  · intro h
    apply BitVec.eq_of_toNat_eq
    unfold decodeOpcode at h
    split at h <;> cases h <;> assumption
  · rintro rfl
    cases i <;> rfl

/-- The opcodes outside the table of R88 are the ranges of R90. -/
theorem decodeOpcode_eq_none_iff (op : Byte) : decodeOpcode op = none ↔
    (0x02 ≤ op.toNat ∧ op.toNat ≤ 0x0F) ∨ (0x14 ≤ op.toNat ∧ op.toNat ≤ 0x1F) ∨
      (0x24 ≤ op.toNat ∧ op.toNat ≤ 0x2F) ∨ 0x32 ≤ op.toNat := by
  unfold decodeOpcode
  split
  case h_13 => simp only [imp_false, true_iff] at *; omega
  all_goals simp only [reduceCtorEq, false_iff]; omega

/-! ### Decoding by the fields (R89, R90) -/

theorem decode_eq_ok_iff (w : Word) (i : Instr) :
    decode w = .ok i ↔ rsvdField w = 0 ∧ decodeOpcode (opcodeField w) = some i := by
  unfold decode
  split
  · next h => split <;> simp_all
  · next h => exact iff_of_false (by simp) fun ⟨h', _⟩ => h h'

/-- A word that selects no command is rejected. -/
theorem exists_decode_error_iff (w : Word) :
    (∃ e, decode w = .error e) ↔ rsvdField w ≠ 0 ∨ decodeOpcode (opcodeField w) = none := by
  unfold decode
  split
  · next h => split <;> simp_all
  · next h => exact iff_of_true ⟨_, rfl⟩ (.inl h)

/-- Decoding inverts encoding, and no other word decodes to the command. -/
theorem decode_eq_ok_iff_eq_encode (w : Word) (i : Instr) : decode w = .ok i ↔ w = encode i := by
  rw [decode_eq_ok_iff, decodeOpcode_eq_some_iff, word_eq_iff_fields, rsvdField_encode]

theorem decode_encode (i : Instr) : decode (encode i) = .ok i := (decode_eq_ok_iff_eq_encode _ i).mpr rfl

end Sys2Proof

namespace Sys2Proof.Machine

/-! ### The completion of the held word -/

theorem completeWord_ok {w : Word} {i : Instr} (h : decode w = .ok i) (s : State) : completeWord w s = exec i s := by
  rw [completeWord, h]

theorem completeWord_error {w : Word} {e : Illegal} (h : decode w = .error e) (s : State) :
    completeWord w s = .next (s.takeFailure .illegalCmd) := by
  rw [completeWord, h, illegalCommand]

/-- Where no reset is asserted, nothing left of the latency completes the held word. -/
theorem step_completeWord {s : State} {w : Word} {later : List Nat} (hr : s.NoResetNow later)
    (hp : s.phase = .busy w 0) : step s = completeWord w { s with resets := later } := by
  rw [step_noResetNow hr, stepNoReset, hp]

/-! ### The turn of the host, by its next operation (R79, R94, R164) -/

theorem hostTurn_nil {s : State} (h : s.host = []) : hostTurn s = .next s := by
  rw [hostTurn, h]

theorem hostTurn_pass {s : State} {rest : List HostOp} (h : s.host = .pass :: rest) :
    hostTurn s = .next (s.hostDone rest) := by
  rw [hostTurn, h]

@[simp] theorem hostRead_reads (s : State) (addr : Word) : (s.hostRead addr).2.reads = s.reads := by
  rcases hostRead_cases s addr with e | e | e <;> simp [e]

theorem hostTurn_read {s : State} {addr : Word} {rest : List HostOp} (h : s.host = .read addr 4 :: rest) :
    hostTurn s = .next { (s.hostRead addr).2 with host := rest, reads := (s.hostRead addr).1 :: s.reads } := by
  rw [hostTurn, h, ← hostRead_reads s addr]
  rfl

theorem hostTurn_write {s : State} {addr v : Word} {rest : List HostOp} (h : s.host = .write addr 4 v :: rest) :
    hostTurn s = .next ((s.hostWrite addr v).hostDone rest) := by
  rw [hostTurn, h]
  rfl

theorem hostTurn_wait_done {s : State} {rest : List HostOp} (h : s.host = .wait :: rest) (hb : s.busy = false) :
    hostTurn s = .next (s.hostDone rest) := by
  rw [hostTurn, h]
  exact if_neg (by simp [hb])

theorem hostTurn_wait_busy {s : State} {rest : List HostOp} (h : s.host = .wait :: rest) (hb : s.busy = true) :
    hostTurn s = .next s := by
  rw [hostTurn, h]
  exact if_pos hb

theorem hostTurn_waitIrq_done {s : State} {rest : List HostOp} (h : s.host = .waitIrq :: rest) (hi : s.irq = true) :
    hostTurn s = .next (s.hostDone rest) := by
  rw [hostTurn, h]
  exact if_pos hi

theorem hostTurn_waitIrq_low {s : State} {rest : List HostOp} (h : s.host = .waitIrq :: rest) (hi : s.irq = false)
    (hmore : s.busy = true ∨ s.resets ≠ []) : hostTurn s = .next s := by
  rw [hostTurn, h]
  simp [hi, hmore]

theorem hostTurn_waitIrq_stuck {s : State} {rest : List HostOp} (h : s.host = .waitIrq :: rest) (hi : s.irq = false)
    (hb : s.busy = false) (hr : s.resets = []) : hostTurn s = .fault .hostStuck := by
  rw [hostTurn, h]
  simp [hi, hb, hr]

/-- Where no reset is asserted and no command completes, a step is the host's turn in a state that shows the host
the same operations, BUSY and interrupt line, and has the same reads. -/
theorem step_eq_hostTurn {s turn : State} {later : List Nat} (hr : s.NoResetNow later)
    (h : (s.phase = .idle ∧ turn = { s with resets := later }) ∨
      ∃ w left, s.phase = .busy w (left + 1) ∧ turn = { s with resets := later, phase := .busy w left }) :
    step s = hostTurn turn ∧ turn.host = s.host ∧ turn.busy = s.busy ∧ turn.irq = s.irq ∧
      turn.resets = later ∧ turn.reads = s.reads := by
  rw [step_noResetNow hr]
  rcases h with ⟨hp, rfl⟩ | ⟨w, left, hp, rfl⟩
  · refine ⟨?_, rfl, rfl, rfl, rfl, rfl⟩
    rw [stepNoReset, hp]
  · refine ⟨stepNoReset_busy (s := { s with resets := later }) hp, rfl, ?_, rfl, rfl, rfl⟩
    rw [State.busy, State.busy, hp]
    rfl

end Sys2Proof.Machine

open Sys2Proof Sys2Proof.Machine

/-- Settles O2: the word has the command's two fields, RSVD = 0 and the opcode of its row. -/
theorem decodeInvertsEncode : Obligations.DecodeInvertsEncode :=
  decode_eq_ok_iff_eq_encode

/-- Settles O3: the ranges are those of the opcode map, and such a word completes by the failure of R89. -/
theorem reservedWordsFail : Obligations.ReservedWordsFail := by
  unfold Obligations.ReservedWordsFail
  intro reserved
  have rejected (w : Word) : (∃ e, Sys2Proof.decode w = .error e) ↔ reserved w := by
    rw [exists_decode_error_iff, decodeOpcode_eq_none_iff, opcodeField_toNat, ne_eq, rsvdField_eq_zero_iff]
    unfold reserved
    omega
  refine ⟨rejected, fun s w later hp hr hw => ?_⟩
  obtain ⟨e, he⟩ := (rejected w).mpr hw
  rw [step_completeWord hr hp, completeWord_error he]
  rfl

/-- Settles O1: each word is the encoding of its row's command. -/
theorem decodeReadsTheTableWords : Obligations.DecodeReadsTheTableWords :=
  ⟨decode_encode .nop, decode_encode .clear, decode_encode .count, decode_encode .sort, decode_encode .buildTree,
    decode_encode .buildCodes, decode_encode .encode, decode_encode .pack, decode_encode .unpack,
    decode_encode .decode, decode_encode .encodeAll, decode_encode .build⟩

/-- Settles O4: a step completes the held word or is the host's turn, of which each operation has one equation. -/
theorem stepRunsTheDecodedCommand : Obligations.StepRunsTheDecodedCommand := by
  intro s later hr
  refine ⟨fun w i hp hd => by rw [step_completeWord hr hp, completeWord_ok hd], fun turn hturn => ?_⟩
  obtain ⟨hstep, hhost, hbusy, hirq, hresets, hreads⟩ := step_eq_hostTurn hr hturn
  rw [hstep, ← hhost, ← hbusy, ← hirq, ← hresets, ← hreads]
  exact ⟨hostTurn_nil, fun _ => hostTurn_pass, fun _ _ => hostTurn_read, fun _ _ _ => hostTurn_write,
    fun _ h => ⟨hostTurn_wait_done h, hostTurn_wait_busy h⟩,
    fun _ h => ⟨hostTurn_waitIrq_done h, hostTurn_waitIrq_low h, hostTurn_waitIrq_stuck h⟩⟩
end

section
/-! PROOFS. COUNT and SORT (40_frequency.md): the counts of a legal input, the order and the probabilities of the
sorted entries, and the strict growth of a probability with its count. -/

namespace Sys2Proof.Machine

/-! ### COUNT by the checks of R96 -/

theorem exec_count (s : State) : exec .count s = primitive countStage s := rfl

/-- The input is legal where the check of R96 finds no byte with bit 7 set. -/
theorem inputLegal_iff (s : State) :
    s.InputLegal ↔ (s.elems .inp s.inLen.toNat).any (fun b => !isSymbol b) = false := by
  simp [State.InputLegal, List.any_eq_false, State.mem_elems, isSymbol]

theorem countStage_badLength {s : State} (h : s.params.maxIn.size < s.inLen.toNat) :
    countStage s = .error .badLength :=
  if_pos h

theorem countStage_invalidSymbol {s : State} (hlen : s.inLen.toNat ≤ s.params.maxIn.size) (h : ¬ s.InputLegal) :
    countStage s = .error .invalidSymbol := by
  rw [inputLegal_iff, Bool.not_eq_false] at h
  rw [countStage, if_neg hlen.not_gt, if_pos h]

theorem countStage_legal {s : State} (hlen : s.inLen.toNat ≤ s.params.maxIn.size) (h : s.InputLegal) :
    countStage s = .ok { s with
      cnt := countSymbols (s.elems .inp s.inLen.toNat)
      total := s.inLen
      status := s.status.setEmpty (s.inLen == 0) } := by
  rw [inputLegal_iff] at h
  rw [countStage, if_neg hlen.not_gt, if_neg (Bool.eq_false_iff.mp h)]

/-! ### The counts -/

@[simp] theorem countOf_ofFin (cnt : Vector Word 128) (x : Fin 128) : countOf cnt (BitVec.ofFin x) = cnt[x] := rfl

theorem countOf_bump (cnt : Vector Word 128) (y x : Sym) :
    countOf (bump cnt y) x = if y = x then countOf cnt x + 1 else countOf cnt x := by
  simp only [countOf, bump, Vector.getElem_set, BitVec.toNat_inj]
  split
  next h => rw [h]
  next => rfl

theorem countOf_foldl (xs : List Byte) (cnt : Vector Word 128) (x : Sym) :
    countOf (xs.foldl (fun cnt b => bump cnt (symOf b)) cnt) x =
      countOf cnt x + BitVec.ofNat 32 (xs.countP fun b => symOf b == x) := by
  induction xs generalizing cnt with
  | nil => simp
  | cons b bs ih =>
    rw [List.foldl_cons, ih, countOf_bump, List.countP_cons]
    by_cases h : symOf b = x
    · rw [if_pos h, if_pos (beq_iff_eq.mpr h), BitVec.ofNat_add, add_assoc, add_comm (BitVec.ofNat 32 _)]
      rfl
    · rw [if_neg h, if_neg (by simpa using h), Nat.add_zero]

/-- A count is the number of occurrences of the symbol (R97). -/
theorem countOf_countSymbols {xs : List Byte} (h : xs.length < 2 ^ 32) (x : Sym) :
    (countOf (countSymbols xs) x).toNat = xs.countP fun b => symOf b == x := by
  have hle : (xs.countP fun b => symOf b == x) ≤ xs.length := List.countP_le_length
  have hzero : countOf (Vector.replicate 128 0) x = 0 := by simp [countOf]
  rw [countSymbols, countOf_foldl, hzero, zero_add, BitVec.toNat_ofNat]
  omega

/-- Bit 7 of a byte is clear where the byte is its symbol (R95). -/
theorem symOf_toNat_of_legal {b : Byte} (h : b.getLsbD 7 = false) : (symOf b).toNat = b.toNat := by
  have hmsb : b.msb = false := h
  rw [BitVec.msb_eq_false_iff_two_mul_lt] at hmsb
  rw [symOf, BitVec.toNat_setWidth]
  omega

theorem countP_elems_of_legal {s : State} (h : s.InputLegal) (x : Sym) :
    ((s.elems .inp s.inLen.toNat).countP fun b => symOf b == x) =
      ((List.range s.inLen.toNat).filter fun i => (s.elem .inp i).toNat == x.toNat).length := by
  rw [State.elems, List.countP_map, List.countP_eq_length_filter]
  congr 1
  refine List.filter_congr fun i hi => ?_
  rw [← symOf_toNat_of_legal (h i (List.mem_range.mp hi))]
  rw [Function.comp_apply, Bool.eq_iff_iff, beq_iff_eq, beq_iff_eq, BitVec.toNat_inj]

/-! ### The present symbols -/

theorem exec_sort (s : State) : exec .sort s = primitive sortStage s := rfl

theorem sortStage_of_zero {s : State} (h : s.total = 0) : sortStage s =
    .ok { s with slistLen := 0, status := (s.status.setEmpty true).setDegenerate false } :=
  if_pos h

theorem sortStage_of_ne_zero {s : State} (h : s.total ≠ 0) : sortStage s = .ok { s with
    slist := overlay s.slist (sortedEntries s.cnt s.total)
    slistLen := BitVec.ofNat 32 (sortedEntries s.cnt s.total).length
    status := (s.status.setEmpty false).setDegenerate ((presentSyms s.cnt).length == 1) } :=
  if_neg h

theorem mem_allSyms (x : Sym) : x ∈ allSyms :=
  List.mem_map.mpr ⟨x.toNat, List.mem_range.mpr x.isLt, by simp⟩

theorem nodup_allSyms : allSyms.Nodup :=
  List.nodup_range.map_on fun i hi j hj h => by
    rw [List.mem_range] at hi hj
    have := congrArg BitVec.toNat h
    simp only [BitVec.toNat_ofNat] at this
    omega

theorem map_countOf_allSyms (cnt : Vector Word 128) : allSyms.map (countOf cnt) = cnt.toList := by
  apply List.ext_getElem
  · simp [allSyms]
  · intro i hi _
    have : i < 128 := by simpa [allSyms] using hi
    simp [allSyms, countOf, Nat.mod_eq_of_lt this]

theorem mem_presentSyms {cnt : Vector Word 128} {x : Sym} : x ∈ presentSyms cnt ↔ countOf cnt x ≠ 0 := by
  simp [presentSyms, mem_allSyms]

theorem nodup_presentSyms (cnt : Vector Word 128) : (presentSyms cnt).Nodup :=
  nodup_allSyms.filter _

theorem length_presentSyms (cnt : Vector Word 128) :
    (presentSyms cnt).length = (cnt.toList.filter fun c => c != 0).length := by
  rw [← map_countOf_allSyms, List.filter_map, List.length_map]
  rfl

theorem length_presentSyms_le (cnt : Vector Word 128) : (presentSyms cnt).length ≤ 128 := by
  rw [length_presentSyms]
  simpa using List.length_filter_le (fun c => c != 0) cnt.toList

/-- Two different counted symbols are not a single one. -/
theorem length_presentSyms_ne_one {cnt : Vector Word 128} {x y : Sym} (hxy : x ≠ y) (hx : countOf cnt x ≠ 0)
    (hy : countOf cnt y ≠ 0) : (presentSyms cnt).length ≠ 1 := by
  intro h
  obtain ⟨z, hz⟩ := List.length_eq_one_iff.mp h
  rw [← mem_presentSyms, hz, List.mem_singleton] at hx hy
  exact hxy (hx.trans hy.symm)

theorem presentSyms_eq_singleton {cnt : Vector Word 128} {x : Sym} (hx : countOf cnt x ≠ 0)
    (h : ∀ y, y ≠ x → countOf cnt y = 0) : presentSyms cnt = [x] := by
  refine List.perm_singleton.mp ((List.perm_ext_iff_of_nodup (nodup_presentSyms cnt) (by simp)).mpr fun y => ?_)
  rw [mem_presentSyms, List.mem_singleton]
  exact ⟨fun hy => not_not.mp fun hne => hy (h y hne), fun hy => hy ▸ hx⟩

/-! ### The sort order (R100) -/

theorem FreqEntry.precedes_total : Std.Total FreqEntry.precedes where
  total a b := by
    rw [FreqEntry.precedes, FreqEntry.precedes, ← BitVec.toNat_inj, ← BitVec.toNat_inj]
    omega

theorem FreqEntry.precedes_trans : IsTrans FreqEntry FreqEntry.precedes where
  trans a b c := by
    rintro (h | ⟨h, hs⟩) (h' | ⟨h', hs'⟩)
    · exact .inl (h.trans h')
    · exact .inl (h' ▸ h)
    · exact .inl (h ▸ h')
    · exact .inr ⟨h.trans h', hs.trans hs'⟩

theorem withSynthetic_of_length_ne_one {l : List FreqEntry} (h : l.length ≠ 1) : withSynthetic l = l := by
  unfold withSynthetic
  split
  · exact absurd rfl h
  · rfl

/-- The entries that SORT writes where not exactly one symbol is present: one for each present symbol. -/
theorem sortedEntries_perm {cnt : Vector Word 128} (total : Word) (h : (presentSyms cnt).length ≠ 1) :
    (sortedEntries cnt total).Perm ((presentSyms cnt).map (freqEntry cnt total)) := by
  rw [sortedEntries, withSynthetic_of_length_ne_one (by rwa [List.length_map])]
  exact List.perm_insertionSort _ _

theorem sortedEntries_pairwise (cnt : Vector Word 128) (total : Word) :
    (sortedEntries cnt total).Pairwise FreqEntry.precedes :=
  haveI := FreqEntry.precedes_total
  haveI := FreqEntry.precedes_trans
  List.pairwise_insertionSort _ _

theorem sortedEntries_nodup_syms {cnt : Vector Word 128} (total : Word) (h : (presentSyms cnt).length ≠ 1) :
    ((sortedEntries cnt total).map FreqEntry.sym).Nodup := by
  rw [((sortedEntries_perm total h).map FreqEntry.sym).nodup_iff, List.map_map]
  exact (List.map_id _).symm ▸ nodup_presentSyms cnt

theorem mem_sortedEntries {cnt : Vector Word 128} {total : Word} (h : (presentSyms cnt).length ≠ 1)
    {e : FreqEntry} : e ∈ sortedEntries cnt total ↔ countOf cnt e.sym ≠ 0 ∧ e = freqEntry cnt total e.sym := by
  rw [(sortedEntries_perm total h).mem_iff, List.mem_map]
  constructor
  · rintro ⟨x, hx, rfl⟩
    exact ⟨mem_presentSyms.mp hx, rfl⟩
  · rintro ⟨hx, he⟩
    exact ⟨e.sym, mem_presentSyms.mpr hx, he.symm⟩

theorem length_sortedEntries {cnt : Vector Word 128} (total : Word) (h : (presentSyms cnt).length ≠ 1) :
    (sortedEntries cnt total).length = (presentSyms cnt).length := by
  rw [(sortedEntries_perm total h).length_eq, List.length_map]

/-- The order is strict, since the entries have different symbols. -/
theorem sortedEntries_strict {cnt : Vector Word 128} {total : Word} (h : (presentSyms cnt).length ≠ 1) {i j : Nat}
    (hij : i < j) (hj : j < (sortedEntries cnt total).length) :
    (sortedEntries cnt total)[i].prob.toNat < (sortedEntries cnt total)[j].prob.toNat ∨
    ((sortedEntries cnt total)[i].prob = (sortedEntries cnt total)[j].prob ∧
      (sortedEntries cnt total)[i].sym.toNat < (sortedEntries cnt total)[j].sym.toNat) := by
  have hne : (sortedEntries cnt total)[i].sym ≠ (sortedEntries cnt total)[j].sym :=
    List.pairwise_iff_getElem.mp (List.pairwise_map.mp (sortedEntries_nodup_syms total h)) i j _ hj hij
  rw [ne_eq, ← BitVec.toNat_inj] at hne
  exact (List.pairwise_iff_getElem.mp (sortedEntries_pairwise cnt total) i j _ hj hij).imp_right
    fun ⟨hp, hs⟩ => ⟨hp, lt_of_le_of_ne hs hne⟩

/-! ### Values between quotients (R15, R101) -/

/-- Rounding is monotone: a place at or below the quotient is at or below the nearest place. -/
theorem NearestPlace.le_of_le {n d m k : Nat} (h : NearestPlace n d m) (hd : 0 < d) (hk : placeUnits k * d ≤ n) :
    k ≤ m := by
  by_contra! hlt
  have hmk : placeUnits m * d < placeUnits k * d := Nat.mul_lt_mul_of_pos_right (placeUnits_strictMono hlt) hd
  have hdist := (h k).1
  simp only [placeDist, Int.abs_eq_natAbs, ← Nat.cast_mul] at hdist
  omega

theorem NearestPlace.ge_of_ge {n d m k : Nat} (h : NearestPlace n d m) (hd : 0 < d) (hk : n ≤ placeUnits k * d) :
    m ≤ k := by
  by_contra! hlt
  have hkm : placeUnits k * d < placeUnits m * d := Nat.mul_lt_mul_of_pos_right (placeUnits_strictMono hlt) hd
  have hdist := (h k).1
  simp only [placeDist, Int.abs_eq_natAbs, ← Nat.cast_mul] at hdist
  omega

/-- Twice the magnitude of a place is that of a place. -/
theorem exists_place_double (k : Nat) : ∃ k', placeUnits k' = placeUnits k * 2 := by
  obtain ⟨e, r, hr, hnormal, rfl⟩ := exists_significand k
  rw [placeUnits_of_significand hr.le hnormal]
  rcases Nat.lt_or_ge r (2 ^ 52) with hsub | hge
  · obtain rfl : e = 0 := by omega
    exact ⟨0 * 2 ^ 52 + r * 2, by rw [placeUnits_of_significand (by omega) (.inl rfl)]; ring⟩
  · exact ⟨(e + 1) * 2 ^ 52 + r, by rw [placeUnits_of_significand hr.le (.inr hge)]; ring⟩

/-- Every number of at most 53 bits, times a power of two, is the magnitude of a place. -/
theorem exists_place_shifted {n : Nat} (h : n ≤ 2 ^ 53) (j : Nat) : ∃ k, placeUnits k = n * 2 ^ j := by
  induction j with
  | zero => exact ⟨0 * 2 ^ 52 + n, placeUnits_of_significand h (.inl rfl)⟩
  | succ j ih =>
    obtain ⟨k, hk⟩ := ih
    obtain ⟨k', hk'⟩ := exists_place_double k
    exact ⟨k', by rw [hk', hk, pow_succ, mul_assoc]⟩

/-- Two consecutive multiples of 2^-53 lie between the quotients of two different counts (R101). -/
theorem exists_multiples_between {a b t : Nat} (hab : a < b) (hbt : b ≤ t) (ht : t ≤ 2 ^ 24) :
    ∃ n, n + 1 ≤ 2 ^ 53 ∧ a * 2 ^ 53 ≤ n * t ∧ (n + 1) * t ≤ b * 2 ^ 53 := by
  have hdiv := Nat.div_add_mod' (b * 2 ^ 53) t
  have hmod := Nat.mod_lt (b * 2 ^ 53) (show t > 0 by omega)
  have hle : b * 2 ^ 53 / t ≤ 2 ^ 53 := Nat.div_le_of_le_mul (Nat.mul_le_mul_right _ hbt)
  obtain ⟨n, hn⟩ : ∃ n, b * 2 ^ 53 / t = n + 1 := Nat.exists_eq_add_one.mpr <|
    Nat.div_pos (by omega) (by omega)
  rw [hn] at hdiv hle
  have hsucc : (n + 1) * t = n * t + t := Nat.succ_mul n t
  exact ⟨n, hle, by omega, by omega⟩

/-- The two multiples are the magnitudes of two places between the quotients. -/
theorem exists_places_between {a b t : Nat} (hab : a < b) (hbt : b ≤ t) (ht : t ≤ 2 ^ 24) :
    ∃ k k', k < k' ∧ a * 2 ^ 1074 ≤ placeUnits k * t ∧ placeUnits k' * t ≤ b * 2 ^ 1074 := by
  obtain ⟨n, hn, hlow, hhigh⟩ := exists_multiples_between hab hbt ht
  obtain ⟨k, hk⟩ := exists_place_shifted (Nat.le_of_succ_le hn) 1021
  obtain ⟨k', hk'⟩ := exists_place_shifted hn 1021
  have hunits (c : Nat) : c * 2 ^ 1074 = c * 2 ^ 53 * 2 ^ 1021 := by rw [mul_assoc, ← pow_add]
  refine ⟨k, k', placeUnits_strictMono.lt_iff_lt.mp ?_, ?_, ?_⟩
  · rw [hk, hk']
    exact Nat.mul_lt_mul_of_pos_right n.lt_add_one (by positivity)
  · rw [hk, hunits a, Nat.mul_right_comm n]
    exact Nat.mul_le_mul_right _ hlow
  · rw [hk', hunits b, Nat.mul_right_comm (n + 1)]
    exact Nat.mul_le_mul_right _ hhigh

/-- A count's quotient by itself is 1.0, whose magnitude is exactly 2^1074 units. -/
theorem f64Div_self_count {c : Nat} (hpos : 0 < c) (hc : c < 2 ^ 53) : f64Div (u2f c) (u2f c) = probOne := by
  have hnear := (f64Div_count hpos hc hc).2
  have hone : placeUnits probOne.toNat = 2 ^ 1074 := by
    rw [show probOne.toNat = 1022 * 2 ^ 52 + 2 ^ 52 by decide,
      placeUnits_of_significand (by norm_num) (by norm_num), ← pow_add]
  have hexact : placeUnits probOne.toNat * c = c * 2 ^ 1074 := by rw [hone, mul_comm]
  exact BitVec.eq_of_toNat_eq
    (le_antisymm (hnear.ge_of_ge hpos hexact.ge) (hnear.le_of_le hpos hexact.le))

/-- The entries of a degenerate alphabet: the synthetic one comes first, since 0.0 is below 1.0 (R99). -/
theorem sortedEntries_of_single {cnt : Vector Word 128} {total : Word} {x : Sym} (hpos : total ≠ 0)
    (hx : countOf cnt x = total) (h : ∀ y, y ≠ x → countOf cnt y = 0) :
    sortedEntries cnt total = [{ sym := x + 1, prob := probZero }, { sym := x, prob := probOne }] := by
  have hentry : freqEntry cnt total x = { sym := x, prob := probOne } := by
    have htotal : 0 < total.toNat := Nat.pos_of_ne_zero fun h0 => hpos (BitVec.eq_of_toNat_eq h0)
    rw [freqEntry, hx, f64Div_self_count htotal (by omega)]
  have hnot : ¬ FreqEntry.precedes { sym := x, prob := probOne } { sym := x + 1, prob := probZero } := by
    simp [FreqEntry.precedes, probOne, probZero]
  rw [sortedEntries, presentSyms_eq_singleton (hx ▸ hpos) h, List.map_singleton, hentry, withSynthetic,
    List.insertionSort_cons, List.insertionSort_cons, List.insertionSort_nil, List.orderedInsert_nil,
    List.orderedInsert_cons, if_neg hnot, List.orderedInsert_nil]

end Sys2Proof.Machine

open Sys2Proof Sys2Proof.Machine

/-- Settles O28: the entries are one for each present symbol, sorted, and the symbols are different. -/
theorem sortOrdersTheEntries : Obligations.SortOrdersTheEntries := by
  intro s x y htotal hxy hx hy
  have hne : (presentSyms s.cnt).length ≠ 1 :=
    length_presentSyms_ne_one (x := BitVec.ofFin x) (y := BitVec.ofFin y) (by simpa using hxy) hx hy
  have hlen := length_sortedEntries s.total hne
  have hlen128 := length_presentSyms_le s.cnt
  have hslen : (BitVec.ofNat 32 (sortedEntries s.cnt s.total).length).toNat =
      (sortedEntries s.cnt s.total).length := by
    rw [BitVec.toNat_ofNat]; omega
  have hdegenerate : ((presentSyms s.cnt).length == 1) = false := beq_false_of_ne hne
  have written (i : Fin 128) (hi : i.1 < (sortedEntries s.cnt s.total).length) :
      (overlay s.slist (sortedEntries s.cnt s.total))[i] = (sortedEntries s.cnt s.total)[i.1] :=
    getElem_overlay_lt _ _ i.2 hi
  refine ⟨_, primitive_ok (sortStage_of_ne_zero htotal), by rw [hdegenerate]; rfl, ?_⟩
  simp only [State.succeed_slist, State.succeed_slistLen, hslen]
  refine ⟨?_, fun z => ⟨fun hz => ?_, ?_⟩, fun i hi => ?_, fun i j hij hj => ?_,
    fun i hi => getElem_overlay_ge _ _ i.2 hi⟩
  · rw [hlen, length_presentSyms]
  · obtain ⟨i, hi, he⟩ := List.getElem_of_mem
      ((mem_sortedEntries (e := freqEntry s.cnt s.total (BitVec.ofFin z)) hne).mpr ⟨hz, rfl⟩)
    refine ⟨⟨i, by omega⟩, hi, ?_⟩
    rw [written _ hi, he]
    rfl
  · rintro ⟨i, hi, hz⟩
    rw [written i hi] at hz
    have hcount := ((mem_sortedEntries hne).mp (List.getElem_mem hi)).1
    rwa [show (sortedEntries s.cnt s.total)[i.1].sym = BitVec.ofFin z from BitVec.eq_of_toNat_eq hz,
      countOf_ofFin] at hcount
  · rw [written i hi]
    exact congrArg FreqEntry.prob ((mem_sortedEntries hne).mp (List.getElem_mem hi)).2
  · rw [written j hj, written i (lt_trans hij hj)]
    exact sortedEntries_strict hne hij hj

/-- Settles O24: the fold counts the occurrences, and a legal byte is its symbol. -/
theorem countCountsTheInput : Obligations.CountCountsTheInput := by
  intro s hlen hlegal
  have hbound : (s.elems .inp s.inLen.toNat).length < 2 ^ 32 := by simpa using s.inLen.isLt
  have hempty : (s.inLen == 0) = decide (s.inLen.toNat = 0) := by
    rw [Bool.eq_iff_iff, beq_iff_eq, decide_eq_true_iff, ← BitVec.toNat_inj]
    rfl
  refine ⟨_, primitive_ok (countStage_legal hlen hlegal), by rw [hempty]; rfl, ?_, fun x => ?_⟩
  · exact (countSum_countSymbols hbound).trans (State.elems_length _ _ _)
  · exact (countOf_countSymbols hbound (BitVec.ofFin x)).trans (countP_elems_of_legal hlegal _)

/-- Settles O25: each check answers its code before anything is counted. -/
theorem countFails : Obligations.CountFails := fun _ =>
  ⟨fun hlen => primitive_fail (countStage_badLength hlen),
    fun hlen hlegal => primitive_fail (countStage_invalidSymbol hlen hlegal)⟩

/-- Settles O27: the list of two entries is written over the first two elements. -/
theorem sortOfOneSymbol : Obligations.SortOfOneSymbol := by
  intro s x htotal hx hother
  have hne : ∀ y : Sym, y ≠ BitVec.ofFin x → countOf s.cnt y = 0 := fun y hy =>
    hother y.toFin fun h => hy (by rw [← h])
  have hsingle := presentSyms_eq_singleton (cnt := s.cnt) (x := BitVec.ofFin x) (by rwa [countOf_ofFin, hx]) hne
  have hentries := sortedEntries_of_single (x := BitVec.ofFin x) htotal hx hne
  refine ⟨_, primitive_ok (sortStage_of_ne_zero htotal), ?_⟩
  rw [hentries, hsingle]
  simp only [State.succeed_slist]
  rw [getElem_overlay_lt _ _ _ Nat.zero_lt_two, getElem_overlay_lt _ _ _ Nat.one_lt_two]
  refine ⟨rfl, BitVec.toNat_add _ _, rfl, rfl, rfl, fun i hi => getElem_overlay_ge _ _ i.2 hi⟩

/-- Settles O32: rounding is monotone, and two places lie between the two quotients. -/
theorem probabilityGrowsWithTheCount : Obligations.ProbabilityGrowsWithTheCount := by
  intro a b t _ hab hbt ht
  have hpos : 0 < t := by omega
  obtain ⟨k, k', hlt, hlow, hhigh⟩ := exists_places_between hab hbt ht
  calc (f64Div (u2f a) (u2f t)).toNat ≤ k := (f64Div_count hpos (by omega) (by omega)).2.ge_of_ge hpos hlow
    _ < k' := hlt
    _ ≤ (f64Div (u2f b) (u2f t)).toNat := (f64Div_count hpos (by omega) (by omega)).2.le_of_le hpos hhigh

/-- Settles O26: nothing is written for an empty count. -/
theorem sortOfNothing : Obligations.SortOfNothing := fun _ h =>
  primitive_ok (sortStage_of_zero h)
end

section
/-! PROOFS. BUILD_TREE: its checks said on the elements of SLIST, and the arena that its merge makes, the order of
the dequeues among it (R104 to R109). -/

namespace Sys2Proof.Machine

/-! ### The checks of R104 -/

theorem State.length_sortedList (s : State) : s.sortedList.length = min s.slistLen.toNat 128 := by
  simp [State.sortedList]

theorem State.getElem_sortedList (s : State) (i : Fin 128) (h : i.1 < s.sortedList.length) :
    s.sortedList[i.1] = s.slist[i] := by
  simp [State.sortedList]

theorem probAccepted_iff (p : Pattern) : probAccepted p = true ↔ f64Sign p = false ∧ f64IsNaN p = false := by
  simp [probAccepted]

/-- The list is accepted exactly where BUILD_TREE's checks find nothing (R104). -/
theorem listAccepted_iff (s : State) : s.ListAccepted ↔
    2 ≤ s.slistLen.toNat ∧ s.slistLen.toNat ≤ 128 ∧
    s.sortedList.any (fun e => !probAccepted e.prob) = false ∧ (s.sortedList.map FreqEntry.sym).Nodup := by
  have hlen := s.length_sortedList
  simp only [List.any_eq_false, Bool.not_eq_true', Bool.not_eq_false, List.forall_mem_iff_forall_getElem]
  constructor
  · rintro ⟨h2, h128, hprob, hsym⟩
    have inside {i : Nat} (h : i < s.sortedList.length) : i < 128 ∧ i < s.slistLen.toNat := by omega
    refine ⟨h2, h128, fun i hi => ?_, List.pairwise_iff_getElem.mpr fun i j hi hj hij heq => hij.ne ?_⟩
    · rw [s.getElem_sortedList ⟨i, (inside hi).1⟩ hi, probAccepted_iff]
      exact hprob _ (inside hi).2
    · rw [List.length_map] at hi hj
      rw [List.getElem_map, List.getElem_map, s.getElem_sortedList ⟨i, (inside hi).1⟩ hi,
        s.getElem_sortedList ⟨j, (inside hj).1⟩ hj] at heq
      exact congrArg Fin.val (hsym _ _ (inside hi).2 (inside hj).2 heq)
  · rintro ⟨h2, h128, hprob, hsym⟩
    refine ⟨h2, h128, fun i hi => ?_, fun i j hi hj heq => Fin.ext ?_⟩
    · rw [← probAccepted_iff, ← s.getElem_sortedList i (by omega)]
      exact hprob i (by omega)
    · rw [← s.getElem_sortedList i (by omega), ← s.getElem_sortedList j (by omega)] at heq
      exact sym_injective hsym _ _ heq

theorem buildTreeStage_listTooSmall {s : State} (h : s.slistLen.toNat < 2) :
    buildTreeStage s = .error .listTooSmall :=
  if_pos h

theorem buildTreeStage_badList {s : State} (h2 : 2 ≤ s.slistLen.toNat) (h : ¬ s.ListAccepted) :
    buildTreeStage s = .error .badList := by
  unfold buildTreeStage
  split_ifs with hsmall hlong hprob hsym
  · exact absurd h2 hsmall.not_ge
  · rfl
  · rfl
  · exact absurd ((listAccepted_iff s).mpr ⟨h2, not_lt.mp hlong, Bool.eq_false_iff.mpr hprob, hsym⟩) h
  · rfl

theorem buildTreeStage_accepted {s : State} (h : s.ListAccepted) :
    buildTreeStage s = .ok { s with
      node := (mergeList s.node s.sortedList).node
      nodeCnt := BitVec.ofNat 32 (mergeList s.node s.sortedList).tt
      root := BitVec.ofNat 8 ((mergeList s.node s.sortedList).tt - 1)
      status := s.status.withNewTree } := by
  obtain ⟨h2, h128, hprob, hsym⟩ := (listAccepted_iff s).mp h
  rw [buildTreeStage, if_neg h2.not_gt, if_neg h128.not_gt, if_neg (Bool.eq_false_iff.mp hprob),
    if_neg (not_not.mpr hsym)]

theorem State.ListAccepted.length_sortedList {s : State} (h : s.ListAccepted) :
    s.sortedList.length = s.slistLen.toNat ∧ 2 ≤ s.sortedList.length ∧ s.sortedList.length ≤ 128 := by
  have hlen : s.sortedList.length = s.slistLen.toNat := by rw [s.length_sortedList, min_eq_left h.le_max]
  exact ⟨hlen, hlen ▸ h.two_le, hlen ▸ h.le_max⟩

/-! ### Induction over the merge steps -/

/-- What holds of the queues at the start, and is kept by every step before the last node is left, holds at the end
of the merge (R107, R109). -/
theorem Merge.Inv.loop_induction {l : List FreqEntry} (hl : l.length ≤ 128) {P : Nat → Merge → Prop}
    (step : ∀ {k m}, m.Inv l k → k + 1 < l.length → P k m → P (k + 1) (m.step l.length))
    (fuel : Nat) {k : Nat} {m : Merge} (h : m.Inv l k) (hfuel : k + fuel + 1 = l.length) (hP : P k m) :
    P (l.length - 1) (Merge.loop l.length fuel m) := by
  induction fuel generalizing k m with
  | zero => rwa [show l.length - 1 = k by omega]
  | succ fuel ih =>
    have hk : k + 1 < l.length := by omega
    rw [Merge.loop, h.not_finished hk]
    exact ih (h.step hl hk) (by omega) (step h hk hP)

theorem mergeList_induction (node : Vector NodeEntry 255) {l : List FreqEntry} (h1 : 1 ≤ l.length)
    (hl : l.length ≤ 128) {P : Nat → Merge → Prop} (begin : P 0 (Merge.begin node l))
    (step : ∀ {k m}, m.Inv l k → k + 1 < l.length → P k m → P (k + 1) (m.step l.length)) :
    P (l.length - 1) (mergeList node l) :=
  Merge.Inv.loop_induction hl step _ (Merge.inv_begin node hl) (by omega) begin

/-! ### What one merge step writes -/

/-- A leaf is taken only where the source queue is not empty. -/
theorem Merge.take_cases {len : Nat} {m : Merge} (h : m.QueuesOk len) (hleft : m.sh < len ∨ m.th < m.tt) :
    (m.take len = m.fromSource ∧ m.sh < len) ∨ m.take len = m.fromTarget := by
  have hsh := h.sh_le
  unfold Merge.take
  split_ifs
  · exact .inl ⟨rfl, by omega⟩
  · exact .inr rfl
  · exact .inl ⟨rfl, by omega⟩
  · exact .inr rfl

@[simp] theorem Merge.take_node (len : Nat) (m : Merge) : (m.take len).2.node = m.node := by
  unfold Merge.take
  split_ifs <;> rfl

@[simp] theorem Merge.take_tt (len : Nat) (m : Merge) : (m.take len).2.tt = m.tt := by
  unfold Merge.take
  split_ifs <;> rfl

@[simp] theorem Merge.step_tt (len : Nat) (m : Merge) : (m.step len).tt = m.tt + 1 := by
  simp [Merge.step_eq]

theorem Merge.step_node (len : Nat) (m : Merge) : (m.step len).node =
    m.node.setIfInBounds m.tt (joinNodes m.node (m.take len).1 ((m.take len).2.take len).1) := by
  simp [Merge.step_eq]

/-- The nodes above those of the tree are unchanged (R108). -/
theorem mergeList_node_above (node : Vector NodeEntry 255) {l : List FreqEntry} (h1 : 1 ≤ l.length)
    (hl : l.length ≤ 128) {n : Fin 255} (hn : 2 * l.length - 1 ≤ n.1) : (mergeList node l).node[n] = node[n] := by
  refine mergeList_induction node h1 hl (P := fun k m => ∀ n : Fin 255, l.length + k ≤ n.1 → m.node[n] = node[n])
    (fun n hn => ?_) (fun {k m} hinv _ ih n hn => ?_) n (by omega)
  · exact getElem_overlay_ge _ _ n.2 (by simpa using hn)
  · have htt := hinv.tt
    rw [← ih n (by omega), Merge.step_node]
    exact Vector.getElem_setIfInBounds_ne _ (by omega)

/-! ### The dequeues as the finished arena records them (R106, R107) -/

/-- An arena in which the nodes made so far are those of `m`, whatever the merge appends to them. -/
def Merge.Extends (m : Merge) (node : Vector NodeEntry 255) : Prop :=
  ∀ n, n < m.tt → nodeAt node n = nodeAt m.node n

/-- In the arena `node`, the queues of `m` stand as the first `j` dequeues leave them, and those took the heads that
R106 prescribes. -/
structure Merge.Follows (node : Vector NodeEntry 255) (len j : Nat) (m : Merge) : Prop where
  queues : m.QueuesOk len
  count  : m.sh + m.th = len + j
  source : sourceTaken node len j = m.sh
  heads  : ∀ i, i < j → dequeued node len i = prescribedHead node len i

theorem sourceTaken_succ (node : Vector NodeEntry 255) (len j : Nat) :
    sourceTaken node len (j + 1) = sourceTaken node len j + if dequeued node len j < len then 1 else 0 := by
  simp only [sourceTaken, List.range_succ, List.filter_append, List.length_append]
  by_cases h : dequeued node len j < len <;> simp [h]

/-- The source head moves exactly when the node taken is a leaf. -/
theorem Merge.take_sh {len : Nat} {m : Merge} (h : m.QueuesOk len) (hleft : m.sh < len ∨ m.th < m.tt) :
    (m.take len).2.sh = m.sh + if (m.take len).1 < len then 1 else 0 := by
  rcases Merge.take_cases h hleft with ⟨e, hs⟩ | e <;> rw [e]
  · rw [if_pos (show m.fromSource.1 < len from hs)]
    rfl
  · rw [if_neg (show ¬ m.fromTarget.1 < len from h.le_th.not_gt)]
    rfl

/-- The head selection of R106 compares the heads that the arena tells. -/
theorem Merge.Follows.take_eq {node : Vector NodeEntry 255} {len j : Nat} {m : Merge} (h : m.Follows node len j)
    (hext : m.Extends node) (htt : m.tt = len + j / 2) : (m.take len).1 = prescribedHead node len j := by
  obtain ⟨⟨hsh, hth, hle⟩, hcount, hsource, -⟩ := h
  have target : len + (j - m.sh) = m.th := by omega
  rw [prescribedHead, hsource, target, ← htt, Merge.take]
  by_cases hempty : m.th = m.tt
  · rw [if_pos hempty, if_pos hempty]
    rfl
  · by_cases hleaves : m.sh = len
    · rw [if_neg hempty, if_neg hempty, if_pos hleaves, if_pos hleaves]
      rfl
    · rw [if_neg hempty, if_neg hempty, if_neg hleaves, if_neg hleaves, hext _ (by omega), hext _ (by omega)]
      split <;> rfl

/-- One dequeue more, where the arena records the node taken. -/
theorem Merge.Follows.take {node : Vector NodeEntry 255} {len j : Nat} {m : Merge} (h : m.Follows node len j)
    (hext : m.Extends node) (htt : m.tt = len + j / 2) (hleft : m.sh < len ∨ m.th < m.tt)
    (hd : dequeued node len j = (m.take len).1) : (m.take len).2.Follows node len (j + 1) where
  queues := (Merge.takes_take h.queues hleft).queues
  count := by rw [(Merge.takes_take h.queues hleft).count, h.count, add_assoc]
  source := by rw [sourceTaken_succ, h.source, hd, Merge.take_sh h.queues hleft]
  heads i hi := by
    rcases Nat.lt_succ_iff_lt_or_eq.mp hi with hi | rfl
    · exact h.heads i hi
    · rw [hd, h.take_eq hext htt]

/-- The two dequeues of a merge step each take a node that is left in the queues (R107). -/
theorem Merge.step_takes {len : Nat} {m : Merge} (h : m.QueuesOk len) (hleft : m.sh + m.th + 2 ≤ len + m.tt) :
    m.Takes len (m.take len).2 (m.take len).1 ∧
    (m.take len).2.Takes len ((m.take len).2.take len).2 ((m.take len).2.take len).1 := by
  have first : m.Takes len (m.take len).2 (m.take len).1 :=
    Merge.takes_take h (by have := h.sh_le; have := h.th_le; omega)
  exact ⟨first, Merge.takes_take first.queues (by have := first.count; have := first.tt; omega)⟩

section
variable {l : List FreqEntry} {k : Nat} {m : Merge} {node : Vector NodeEntry 255} (h : m.Inv l k)
  (hl : l.length ≤ 128) (hk : k + 1 < l.length) (hext : (m.step l.length).Extends node)
include h hl hk hext

theorem Merge.Extends.of_step : m.Extends node := by
  have htt := h.tt
  intro n hn
  rw [hext n (by rw [Merge.step_tt]; omega), Merge.step_node, nodeAt_setIfInBounds _ (by omega), if_neg hn.ne]

/-- Every arena that goes on from a merge step records the two nodes it took as the children of its node (R107). -/
theorem Merge.Inv.step_record :
    nodeAt node m.tt = joinNodes node (m.take l.length).1 ((m.take l.length).2.take l.length).1 ∧
    (nodeAt node m.tt).left.toNat = (m.take l.length).1 ∧
    (nodeAt node m.tt).right.toNat = ((m.take l.length).2.take l.length).1 := by
  have htt := h.tt
  have hcount := h.count
  obtain ⟨first, second⟩ := Merge.step_takes h.queues (by omega)
  have ha := first.lt_tt
  have hb := second.lt_tt
  rw [Merge.take_tt] at hb
  have hold := Merge.Extends.of_step h hl hk hext
  have hnew : nodeAt node m.tt = joinNodes node (m.take l.length).1 ((m.take l.length).2.take l.length).1 := by
    rw [hext _ (by simp), Merge.step_node, nodeAt_setIfInBounds _ (by omega), if_pos rfl, joinNodes, joinNodes,
      hold _ ha, hold _ hb]
  rw [hnew]
  exact ⟨rfl, Nat.mod_eq_of_lt (by omega), Nat.mod_eq_of_lt (by omega)⟩

/-- A merge step makes two dequeues, both as R106 prescribes. -/
theorem Merge.Inv.follows_step (hf : m.Follows node l.length (2 * k)) :
    (m.step l.length).Follows node l.length (2 * (k + 1)) := by
  have htt := h.tt
  have hcount := h.count
  have hqueues := h.queues
  have hsh := hqueues.sh_le
  have hth := hqueues.th_le
  have hold := Merge.Extends.of_step h hl hk hext
  obtain ⟨-, hleft, hright⟩ := h.step_record hl hk hext
  obtain ⟨first, -⟩ := Merge.step_takes hqueues (by omega)
  have hcount1 := first.count
  have hd0 : dequeued node l.length (2 * k) = (m.take l.length).1 := by
    rw [dequeued, if_pos (by omega), show l.length + 2 * k / 2 = m.tt by omega, hleft]
  have hd1 : dequeued node l.length (2 * k + 1) = ((m.take l.length).2.take l.length).1 := by
    rw [dequeued, if_neg (by omega), show l.length + (2 * k + 1) / 2 = m.tt by omega, hright]
  have follows1 := hf.take hold (by omega) (by omega) hd0
  have hold1 : (m.take l.length).2.Extends node := by simpa [Merge.Extends] using hold
  obtain ⟨-, hcount2, hsource2, hheads2⟩ := follows1.take hold1 (by rw [Merge.take_tt]; omega)
    (by rw [Merge.take_tt]; omega) hd1
  exact ⟨(h.step hl hk).queues, hcount2, hsource2, hheads2⟩

end

/-- The merge dequeues the heads that R106 prescribes. -/
theorem mergeList_heads (node : Vector NodeEntry 255) {l : List FreqEntry} (h1 : 1 ≤ l.length) (hl : l.length ≤ 128)
    {j : Nat} (hj : j < 2 * (l.length - 1)) : dequeued (mergeList node l).node l.length j =
      prescribedHead (mergeList node l).node l.length j := by
  have follows := mergeList_induction node h1 hl
    (P := fun k m => ∀ arena, m.Extends arena → m.Follows arena l.length (2 * k))
    (fun _ _ => ⟨(Merge.inv_begin node hl).queues, Nat.zero_add _, rfl, fun i hi => absurd hi i.not_lt_zero⟩)
    (fun h hk ih arena hext => h.follows_step hl hk hext (ih arena (.of_step h hl hk hext)))
  exact (follows _ fun _ _ => rfl).heads j hj

/-- Every internal node joins its children (R107). -/
theorem mergeList_joins (node : Vector NodeEntry 255) {l : List FreqEntry} (h1 : 1 ≤ l.length) (hl : l.length ≤ 128)
    {n : Nat} (hn : l.length ≤ n) (hn' : n < (mergeList node l).tt) : nodeAt (mergeList node l).node n =
      joinNodes (mergeList node l).node (nodeAt (mergeList node l).node n).left.toNat
        (nodeAt (mergeList node l).node n).right.toNat := by
  refine mergeList_induction node h1 hl
    (P := fun _ m => ∀ arena, m.Extends arena → ∀ n, l.length ≤ n → n < m.tt → nodeAt arena n =
      joinNodes arena (nodeAt arena n).left.toNat (nodeAt arena n).right.toNat)
    (fun _ _ n hn hn' => absurd hn' hn.not_gt) (fun {k m} h hk ih arena hext n hn hn' => ?_)
    _ (fun _ _ => rfl) n hn hn'
  rw [Merge.step_tt] at hn'
  rcases Nat.lt_succ_iff_lt_or_eq.mp hn' with hn' | rfl
  · exact ih arena (.of_step h hl hk hext) n hn hn'
  · obtain ⟨hnode, hleft, hright⟩ := h.step_record hl hk hext
    rw [hleft, hright, hnode]

end Sys2Proof.Machine

open Sys2Proof Sys2Proof.Machine

/-- Settles O33: each check answers its code before anything is written, and an accepted list passes them all. -/
theorem buildTreeChecksTheList : Obligations.BuildTreeChecksTheList := fun _ =>
  ⟨fun h => primitive_fail (buildTreeStage_listTooSmall h), fun h2 h => primitive_fail (buildTreeStage_badList h2 h),
    fun h => ⟨_, primitive_ok (buildTreeStage_accepted h), rfl, rfl⟩⟩

/-- Settles O34: the merge keeps the leaves of its start and the nodes above the tree, and makes L-1 nodes. -/
theorem buildTreeMakesTheArena : Obligations.BuildTreeMakesTheArena := by
  intro s h
  obtain ⟨hlen, h2, h128⟩ := h.length_sortedList
  have hinv := mergeList_inv s.node (one_le_two.trans h2) h128
  have htt := hinv.tt
  refine ⟨_, primitive_ok (buildTreeStage_accepted h), rfl, ?_, ?_, fun i hi => ?_, fun n hn => ?_⟩
  · simp only [State.succeed_nodeCnt, BitVec.toNat_ofNat]
    omega
  · simp only [State.succeed_root, BitVec.toNat_ofNat]
    omega
  · rw [← s.getElem_sortedList i (by omega)]
    exact hinv.leaves i _
  · exact mergeList_node_above s.node (one_le_two.trans h2) h128 (by omega)

/-- Settles O35: every step of the merge takes the prescribed heads, and its node stays as the step makes it. -/
theorem buildTreeMergesTwoQueues : Obligations.BuildTreeMergesTwoQueues := by
  intro s h
  obtain ⟨hlen, h2, h128⟩ := h.length_sortedList
  have htt := (mergeList_inv s.node (one_le_two.trans h2) h128).tt
  refine ⟨_, primitive_ok (buildTreeStage_accepted h), ?_, ?_⟩
  · simp only [State.succeed_nodeCnt, BitVec.toNat_ofNat]
    omega
  rw [← hlen]
  refine ⟨fun j hj => mergeList_heads s.node (one_le_two.trans h2) h128 hj, fun n hn hn' => ?_⟩
  have hjoin := mergeList_joins s.node (one_le_two.trans h2) h128 hn (by omega)
  exact ⟨congrArg NodeEntry.leaf hjoin, congrArg NodeEntry.sym hjoin, congrArg NodeEntry.prob hjoin⟩

/-- Settles O36: the merge of a list of distinct symbols has the shape of R109. -/
theorem buildTreeGivesAFullTree : Obligations.BuildTreeGivesAFullTree := by
  intro s h
  obtain ⟨hlen, h2, h128⟩ := h.length_sortedList
  obtain ⟨-, -, -, hsym⟩ := (listAccepted_iff s).mp h
  exact ⟨_, primitive_ok (buildTreeStage_accepted h), hlen ▸ mergeList_treeShape s.node h2 h128 hsym⟩
end

section
/-! PROOFS. BUILD_CODES (42_codes.md): a code as the bits of a path, the walk as the recording of all leaf paths, and
what the shape of R109 says about those paths: how long they are, that a leaf has exactly one, and Kraft's sum. -/

namespace Sys2Proof.Machine

/-! ### The checks of R115 -/

theorem buildCodesStage_noTree {s : State} (h : s.status.treeValid = false) :
    buildCodesStage s = .error .noTree :=
  if_neg (Bool.eq_false_iff.mp h)

theorem buildCodesStage_valid {s : State} (h : s.status.treeValid = true) : buildCodesStage s =
    .ok { s with code := codeTable s.node s.root, status := s.status.withNewCodes } :=
  if_pos h

/-! ### The code of a path (R56, R114) -/

/-- The code that R114 gives to the leaf at the end of a path. -/
def pathCode (e : List Bool) : CodeEntry := ⟨BitVec.ofNat 8 e.length, BitVec.ofNat 128 (bitsValue e)⟩

theorem bitsValue_concat (e : List Bool) (b : Bool) : bitsValue (e ++ [b]) = 2 * bitsValue e + b.toNat := by
  simp [bitsValue]

theorem bitsValue_lt (e : List Bool) : bitsValue e < 2 ^ e.length := by
  induction e using List.reverseRecOn with
  | nil => exact Nat.one_pos
  | append_singleton e b ih =>
    have hb := b.toNat_le
    rw [bitsValue_concat, List.length_append, List.length_singleton, pow_succ]
    omega

/-- The bits of the number, from the least significant one, are the list from its end. -/
theorem testBit_bitsValue (e : List Bool) (i : Nat) : (bitsValue e).testBit i = e.reverse.getD i false := by
  induction e using List.reverseRecOn generalizing i with
  | nil => simp [bitsValue]
  | append_singleton e b ih =>
    have hb := b.toNat_le
    rw [bitsValue_concat, List.reverse_append, List.reverse_singleton, List.singleton_append]
    cases i with
    | zero => cases b <;> simp [Nat.testBit_zero]
    | succ i =>
      rw [Nat.testBit_succ, show (2 * bitsValue e + b.toNat) / 2 = bitsValue e by omega, ih,
        List.getD_cons_succ]

theorem pathCode_concat_false (p : List Bool) :
    pathCode (p ++ [false]) = ⟨(pathCode p).len + 1, 2 * (pathCode p).bits⟩ := by
  simp [pathCode, bitsValue_concat, BitVec.ofNat_add, BitVec.ofNat_mul]

theorem pathCode_concat_true (p : List Bool) :
    pathCode (p ++ [true]) = ⟨(pathCode p).len + 1, 2 * (pathCode p).bits + 1⟩ := by
  simp [pathCode, bitsValue_concat, BitVec.ofNat_add, BitVec.ofNat_mul]

section
variable {e : List Bool} (h : e.length ≤ 127)
include h

theorem pathCode_len : (pathCode e).len.toNat = e.length :=
  Nat.mod_eq_of_lt (by omega)

theorem pathCode_bits : (pathCode e).bits.toNat = bitsValue e :=
  Nat.mod_eq_of_lt ((bitsValue_lt e).trans_le (Nat.pow_le_pow_right Nat.two_pos (by omega)))

theorem codeBits_pathCode : codeBits (pathCode e) = e := by
  have hlen := pathCode_len h
  refine List.ext_getElem (by simp [codeBits, hlen]) fun j _ hj => ?_
  simp only [codeBits, List.getElem_map, List.getElem_range, hlen]
  rw [BitVec.getLsbD, pathCode_bits h, testBit_bitsValue,
    List.getD_eq_getElem _ _ (by rw [List.length_reverse]; omega), List.getElem_reverse]
  congr 1
  omega

theorem pathCode_len_ne_zero (hne : e ≠ []) : (pathCode e).len ≠ 0 := fun h0 =>
  hne (List.length_eq_zero_iff.mp ((pathCode_len h).symm.trans (congrArg BitVec.toNat h0)))

end

/-! ### Paths to leaves -/

theorem leafAtPath_nil_eq_some {node : Vector NodeEntry 255} {n : BitVec 8} {x : Sym} :
    leafAtPath node n [] = some x ↔ (nodeAt node n.toNat).leaf = true ∧ (nodeAt node n.toNat).sym = x := by
  simp [leafAtPath]

theorem leafAtPath_cons_eq_some {node : Vector NodeEntry 255} {n : BitVec 8} {b : Bool} {e : List Bool} {x : Sym} :
    leafAtPath node n (b :: e) = some x ↔
      (nodeAt node n.toNat).leaf = false ∧ leafAtPath node (childOf node n b) e = some x := by
  rw [leafAtPath]
  split <;> simp [*]

/-- A path to a leaf does not go on to another leaf (R117). -/
theorem eq_of_leafAtPath_prefix {node : Vector NodeEntry 255} {n : BitVec 8} {e e' : List Bool} {x y : Sym}
    (hx : leafAtPath node n e = some x) (hy : leafAtPath node n e' = some y) (hp : e <+: e') : x = y := by
  obtain ⟨r, rfl⟩ := hp
  induction e generalizing n with
  | nil =>
    cases r with
    | nil => exact Option.some.inj (hx.symm.trans hy)
    | cons b r =>
      have hleaf := (leafAtPath_nil_eq_some.mp hx).1
      rw [(leafAtPath_cons_eq_some.mp hy).1] at hleaf
      cases hleaf
  | cons b e ih => exact ih (leafAtPath_cons_eq_some.mp hx).2 (leafAtPath_cons_eq_some.mp hy).2

/-! ### The walk over all leaves (R115) -/

/-- The paths from a node to the leaves that the walk reaches within its fuel, in the order of the walk, each with
the symbol of its leaf. -/
def leafPaths (node : Vector NodeEntry 255) : Nat → BitVec 8 → List (List Bool × Sym)
  | 0, _ => []
  | fuel + 1, n =>
    if (nodeAt node n.toNat).leaf then [([], (nodeAt node n.toNat).sym)]
    else (leafPaths node fuel (childOf node n false)).map (Prod.map (List.cons false) id) ++
      (leafPaths node fuel (childOf node n true)).map (Prod.map (List.cons true) id)

/-- A code table after the codes of some paths have been recorded in turn. -/
def recordCodes (l : List (List Bool × Sym)) (table : Vector CodeEntry 128) : Vector CodeEntry 128 :=
  l.foldl (fun table c => table.set c.2.toNat (pathCode c.1) c.2.isLt) table

theorem recordCodes_append (l l' : List (List Bool × Sym)) (table : Vector CodeEntry 128) :
    recordCodes (l ++ l') table = recordCodes l' (recordCodes l table) :=
  List.foldl_append

theorem leafPaths_succ_leaf {node : Vector NodeEntry 255} {n : BitVec 8} (h : (nodeAt node n.toNat).leaf = true)
    (fuel : Nat) : leafPaths node (fuel + 1) n = [([], (nodeAt node n.toNat).sym)] := by
  rw [leafPaths, if_pos h]

theorem leafPaths_succ_internal {node : Vector NodeEntry 255} {n : BitVec 8}
    (h : (nodeAt node n.toNat).leaf = false) (fuel : Nat) : leafPaths node (fuel + 1) n =
      (leafPaths node fuel (childOf node n false)).map (Prod.map (List.cons false) id) ++
      (leafPaths node fuel (childOf node n true)).map (Prod.map (List.cons true) id) := by
  rw [leafPaths, if_neg (Bool.eq_false_iff.mp h)]

theorem mem_leafPaths {node : Vector NodeEntry 255} {fuel : Nat} {n : BitVec 8} {e : List Bool} {x : Sym} :
    (e, x) ∈ leafPaths node fuel n ↔ e.length < fuel ∧ leafAtPath node n e = some x := by
  induction fuel generalizing n e with
  | zero => simp [leafPaths]
  | succ fuel ih =>
    cases hleaf : (nodeAt node n.toNat).leaf with
    | true =>
      rw [leafPaths_succ_leaf hleaf]
      cases e with
      | nil => simpa [leafAtPath_nil_eq_some, hleaf] using eq_comm
      | cons b e => simp [leafAtPath_cons_eq_some, hleaf]
    | false =>
      rw [leafPaths_succ_internal hleaf]
      cases e with
      | nil => simp [leafAtPath_nil_eq_some, hleaf]
      | cons b e => cases b <;> simp [leafAtPath_cons_eq_some, hleaf, ih]

theorem nodup_leafPaths (node : Vector NodeEntry 255) (fuel : Nat) (n : BitVec 8) : (leafPaths node fuel n).Nodup := by
  have inj (b : Bool) : Function.Injective (Prod.map (List.cons b) (id : Sym → Sym)) :=
    List.cons_injective.prodMap Function.injective_id
  induction fuel generalizing n with
  | zero => exact List.nodup_nil
  | succ fuel ih =>
    cases hleaf : (nodeAt node n.toNat).leaf with
    | true =>
      rw [leafPaths_succ_leaf hleaf]
      exact List.nodup_singleton _
    | false =>
      rw [leafPaths_succ_internal hleaf]
      refine ((ih _).map (inj false)).append ((ih _).map (inj true)) fun c hl hr => ?_
      obtain ⟨c₀, -, rfl⟩ := List.mem_map.mp hl
      obtain ⟨c₁, -, h⟩ := List.mem_map.mp hr
      simp [Prod.map] at h

/-- The walk from a node reached by the path `p` records the codes of the node's leaves, with `p` before their
paths. -/
theorem walk_eq_recordCodes (node : Vector NodeEntry 255) (fuel : Nat) (n : BitVec 8) (p : List Bool)
    (table : Vector CodeEntry 128) : walk node fuel n (pathCode p).len (pathCode p).bits table =
      recordCodes ((leafPaths node fuel n).map (Prod.map (p ++ ·) id)) table := by
  have prepend_cons (p : List Bool) (b : Bool) (l : List (List Bool × Sym)) : (l.map (Prod.map (List.cons b) id)).map
      (Prod.map (p ++ ·) id) = l.map (Prod.map (p ++ [b] ++ ·) id) := by
    simp [Function.comp_def]
  induction fuel generalizing n p table with
  | zero => rfl
  | succ fuel ih =>
    rw [walk]
    cases hleaf : (nodeAt node n.toNat).leaf with
    | true =>
      rw [leafPaths_succ_leaf hleaf, if_pos rfl]
      simp [recordCodes]
    | false =>
      rw [leafPaths_succ_internal hleaf, if_neg Bool.false_ne_true, List.map_append, recordCodes_append,
        prepend_cons, prepend_cons, ← ih, ← ih, pathCode_concat_false, pathCode_concat_true]
      rfl

theorem codeTable_eq_recordCodes (node : Vector NodeEntry 255) (root : BitVec 8) : codeTable node root =
    recordCodes (leafPaths node 128 root) (Vector.replicate 128 ⟨0, 0⟩) := by
  have h : codeTable node root = _ := walk_eq_recordCodes node 128 root [] (Vector.replicate 128 ⟨0, 0⟩)
  exact h.trans (congrArg (recordCodes · _) (List.map_id _))

theorem codeOf_set (table : Vector CodeEntry 128) (y x : Sym) (c : CodeEntry) :
    codeOf (table.set y.toNat c y.isLt) x = if y = x then c else codeOf table x := by
  simp only [codeOf, Vector.getElem_set, BitVec.toNat_inj]

theorem codeOf_recordCodes_of_not_mem {l : List (List Bool × Sym)} {x : Sym} (h : x ∉ l.map Prod.snd)
    (table : Vector CodeEntry 128) : codeOf (recordCodes l table) x = codeOf table x := by
  induction l generalizing table with
  | nil => rfl
  | cons c l ih =>
    rw [List.map_cons, List.mem_cons, not_or] at h
    obtain ⟨hc, hl⟩ := h
    exact (ih hl _).trans (by rw [codeOf_set, if_neg (Ne.symm hc)])

theorem codeOf_recordCodes_of_mem {l : List (List Bool × Sym)} (hl : (l.map Prod.snd).Nodup) {e : List Bool} {x : Sym}
    (h : (e, x) ∈ l) (table : Vector CodeEntry 128) : codeOf (recordCodes l table) x = pathCode e := by
  induction l generalizing table with
  | nil => cases h
  | cons c l ih =>
    rw [List.map_cons, List.nodup_cons] at hl
    obtain ⟨hc, hl⟩ := hl
    rcases List.mem_cons.mp h with rfl | h
    · exact (codeOf_recordCodes_of_not_mem hc _).trans (by rw [codeOf_set, if_pos rfl])
    · exact ih hl h _

theorem codeOf_codeTable_of_no_leaf {node : Vector NodeEntry 255} {root : BitVec 8} {x : Sym}
    (hx : ∀ e, leafAtPath node root e ≠ some x) : codeOf (codeTable node root) x = ⟨0, 0⟩ := by
  have absent : x ∉ (leafPaths node 128 root).map Prod.snd := by
    intro hmem
    obtain ⟨⟨e, _⟩, he, rfl⟩ := List.mem_map.mp hmem
    exact hx e (mem_leafPaths.mp he).2
  rw [codeTable_eq_recordCodes, codeOf_recordCodes_of_not_mem absent]
  simp [codeOf]

/-- The symbols that a code table codes, ascending. -/
def codedSyms (code : Vector CodeEntry 128) : List Sym := allSyms.filter fun x => (codeOf code x).len != 0

theorem mem_codedSyms {code : Vector CodeEntry 128} {x : Sym} : x ∈ codedSyms code ↔ (codeOf code x).len ≠ 0 := by
  simp [codedSyms, mem_allSyms]

theorem nodup_codedSyms (code : Vector CodeEntry 128) : (codedSyms code).Nodup := nodup_allSyms.filter _

/-! ### The paths of a full binary tree (R109) -/

/-- The children that R109 speaks of are those that the steps of a path go to. -/
theorem isParent_iff (node : Vector NodeEntry 255) (n : BitVec 8) (k : Nat) :
    ((nodeAt node n.toNat).left.toNat = k ∨ (nodeAt node n.toNat).right.toNat = k) ↔
      ∃ b, (childOf node n b).toNat = k := by
  simp [childOf]

section
variable {node : Vector NodeEntry 255} {len : Nat} (h : TreeShape node len)
include h

theorem TreeShape.leaf_iff {n : Nat} (hn : n < 2 * len - 1) : (nodeAt node n).leaf = true ↔ n < len := by
  refine ⟨fun hleaf => not_le.mp fun hle => ?_, fun hlt => (h.leaves n hlt).1⟩
  rw [(h.internal n hle hn).1] at hleaf
  cases hleaf

theorem TreeShape.le_of_not_leaf {n : Nat} (hleaf : (nodeAt node n).leaf = false) : len ≤ n :=
  not_lt.mp fun hlt => by simp [(h.leaves n hlt).1] at hleaf

theorem TreeShape.childOf_lt {n : BitVec 8} (hle : len ≤ n.toNat) (hn : n.toNat < 2 * len - 1) (b : Bool) :
    (childOf node n b).toNat < n.toNat := by
  obtain ⟨-, -, hleft, hright, -⟩ := h.internal _ hle hn
  cases b
  · exact hleft
  · exact hright

/-- A child tells its parent and its side. -/
theorem TreeShape.childOf_inj {m n : BitVec 8} (hm : len ≤ m.toNat) (hm' : m.toNat < 2 * len - 1)
    (hn : len ≤ n.toNat) (hn' : n.toNat < 2 * len - 1) {b c : Bool} (heq : childOf node m b = childOf node n c) :
    m = n ∧ b = c := by
  have hlt := h.childOf_lt hm hm' b
  have hmn : m = n := BitVec.eq_of_toNat_eq
    ((h.oneParent _ (by omega)).unique ⟨hm, hm', (isParent_iff _ m _).mpr ⟨b, rfl⟩⟩
      ⟨hn, hn', (isParent_iff _ n _).mpr ⟨c, by rw [heq]⟩⟩)
  subst hmn
  obtain ⟨-, -, -, -, hne⟩ := h.internal _ hm hm'
  refine ⟨rfl, ?_⟩
  cases b <;> cases c
  · rfl
  · exact absurd heq hne
  · exact absurd heq.symm hne
  · rfl

theorem TreeShape.exists_parent {n : BitVec 8} (hn : n.toNat < 2 * len - 2) :
    ∃ m b, len ≤ m.toNat ∧ m.toNat < 2 * len - 1 ∧ childOf node m b = n := by
  have hmax := h.le_max
  obtain ⟨p, ⟨hle, hlt, hchild⟩, -⟩ := h.oneParent _ hn
  have hp : (BitVec.ofNat 8 p).toNat = p := Nat.mod_eq_of_lt (by omega)
  rw [← hp] at hle hlt hchild
  obtain ⟨b, hb⟩ := (isParent_iff _ _ _).mp hchild
  exact ⟨_, b, hle, hlt, BitVec.eq_of_toNat_eq hb⟩

/-- A path's nodes fall, and above its leaf they are internal, so it is not longer than there are internal nodes. -/
theorem TreeShape.length_le {n : BitVec 8} (hn : n.toNat < 2 * len - 1) {e : List Bool} {x : Sym}
    (hx : leafAtPath node n e = some x) : e.length ≤ n.toNat + 1 - len := by
  induction e generalizing n with
  | nil => exact Nat.zero_le _
  | cons b e ih =>
    obtain ⟨hleaf, hx⟩ := leafAtPath_cons_eq_some.mp hx
    have hle := h.le_of_not_leaf hleaf
    have hlt := h.childOf_lt hle hn b
    have := ih (by omega) hx
    rw [List.length_cons]
    omega

/-- Paths of one length to one leaf come from one node. -/
theorem TreeShape.path_inj {m n : BitVec 8} (hm : m.toNat < 2 * len - 1) (hn : n.toNat < 2 * len - 1)
    {e e' : List Bool} {x : Sym} (he : leafAtPath node m e = some x) (he' : leafAtPath node n e' = some x)
    (hlen : e.length = e'.length) : m = n ∧ e = e' := by
  induction e generalizing m n e' with
  | nil =>
    obtain rfl := List.length_eq_zero_iff.mp hlen.symm
    obtain ⟨hleaf, rfl⟩ := leafAtPath_nil_eq_some.mp he
    obtain ⟨hleaf', hsym⟩ := leafAtPath_nil_eq_some.mp he'
    have hnode := h.distinct _ _ ((h.leaf_iff hm).mp hleaf) ((h.leaf_iff hn).mp hleaf') hsym.symm
    exact ⟨BitVec.eq_of_toNat_eq hnode, rfl⟩
  | cons b e ih =>
    obtain _ | ⟨c, e'⟩ := e'
    · cases hlen
    obtain ⟨hleaf, he⟩ := leafAtPath_cons_eq_some.mp he
    obtain ⟨hleaf', he'⟩ := leafAtPath_cons_eq_some.mp he'
    have hle := h.le_of_not_leaf hleaf
    have hle' := h.le_of_not_leaf hleaf'
    obtain ⟨hchild, rfl⟩ := ih ((h.childOf_lt hle hm b).trans hm) ((h.childOf_lt hle' hn c).trans hn) he he'
      (Nat.succ.inj hlen)
    obtain ⟨rfl, rfl⟩ := h.childOf_inj hle hm hle' hn hchild
    exact ⟨rfl, rfl⟩

/-- A path leads to one of the first `len` nodes. -/
theorem TreeShape.exists_leaf_of_path {n : BitVec 8} (hn : n.toNat < 2 * len - 1) {e : List Bool} {x : Sym}
    (hx : leafAtPath node n e = some x) : ∃ i, i < len ∧ (nodeAt node i).sym = x := by
  induction e generalizing n with
  | nil =>
    obtain ⟨hleaf, hsym⟩ := leafAtPath_nil_eq_some.mp hx
    exact ⟨_, (h.leaf_iff hn).mp hleaf, hsym⟩
  | cons b e ih =>
    obtain ⟨hleaf, hx⟩ := leafAtPath_cons_eq_some.mp hx
    exact ih ((h.childOf_lt (h.le_of_not_leaf hleaf) hn b).trans hn) hx

/-- Kraft's sum from a node whose leaves the fuel reaches: each leaf at depth `d` counts 2^(fuel-d). -/
theorem TreeShape.kraft_leafPaths (fuel : Nat) {n : BitVec 8} (hn : n.toNat < 2 * len - 1)
    (hfuel : n.toNat < len + fuel) :
    ((leafPaths node (fuel + 1) n).map fun c => 2 ^ (fuel - c.1.length)).sum = 2 ^ fuel := by
  induction fuel generalizing n with
  | zero =>
    rw [leafPaths_succ_leaf ((h.leaf_iff hn).mpr hfuel)]
    rfl
  | succ fuel ih =>
    cases hleaf : (nodeAt node n.toNat).leaf with
    | true =>
      rw [leafPaths_succ_leaf hleaf]
      simp
    | false =>
      have half (b : Bool) : (((leafPaths node (fuel + 1) (childOf node n b)).map (Prod.map (List.cons b) id)).map
          fun c => 2 ^ (fuel + 1 - c.1.length)).sum = 2 ^ fuel := by
        have hlt := h.childOf_lt (h.le_of_not_leaf hleaf) hn b
        rw [← ih (n := childOf node n b) (by omega) (by omega), List.map_map]
        simp [Function.comp_def]
      rw [leafPaths_succ_internal hleaf, List.map_append, List.sum_append, half, half, pow_succ, mul_two]

variable {root : BitVec 8} (hroot : root.toNat = 2 * len - 2)
include hroot

theorem TreeShape.root_internal : len ≤ root.toNat ∧ root.toNat < 2 * len - 1 := by
  have := h.two_le
  omega

/-- No path to a leaf is longer than its root path: it would pass through the root, which is no node's child. -/
theorem TreeShape.length_le_of_root {n : BitVec 8} (hn : n.toNat < 2 * len - 1) {e e' : List Bool} {x : Sym}
    (he : leafAtPath node n e = some x) (he' : leafAtPath node root e' = some x) : e.length ≤ e'.length := by
  induction e generalizing n with
  | nil => exact Nat.zero_le _
  | cons b e ih =>
    obtain ⟨hleaf, he⟩ := leafAtPath_cons_eq_some.mp he
    have hlt := h.childOf_lt (h.le_of_not_leaf hleaf) hn b
    refine (ih (hlt.trans hn) he).lt_of_ne fun hlen => ?_
    obtain ⟨hchild, -⟩ := h.path_inj (hlt.trans hn) (h.root_internal hroot).2 he he' hlen
    rw [hchild] at hlt
    omega

/-- A leaf has one root path. -/
theorem TreeShape.rootPath_unique {e e' : List Bool} {x : Sym} (he : leafAtPath node root e = some x)
    (he' : leafAtPath node root e' = some x) : e = e' := by
  have hlt := (h.root_internal hroot).2
  exact (h.path_inj hlt hlt he he'
    ((h.length_le_of_root hroot hlt he he').antisymm (h.length_le_of_root hroot hlt he' he))).2

/-- A root path has at least one step and at most 127 (R109). -/
theorem TreeShape.rootPath_length {e : List Bool} {x : Sym} (he : leafAtPath node root e = some x) :
    e ≠ [] ∧ e.length ≤ 127 := by
  have hmax := h.le_max
  obtain ⟨hle, hlt⟩ := h.root_internal hroot
  have hlen := h.length_le hlt he
  refine ⟨?_, by omega⟩
  rintro rfl
  exact hle.not_gt ((h.leaf_iff hlt).mp (leafAtPath_nil_eq_some.mp he).1)

/-- Every leaf that some node leads to, the root leads to: above the node stand its ancestors. -/
theorem TreeShape.exists_rootPath {n : BitVec 8} (hn : n.toNat < 2 * len - 1) {e : List Bool} {x : Sym}
    (he : leafAtPath node n e = some x) : ∃ e', leafAtPath node root e' = some x := by
  induction hd : root.toNat - n.toNat using Nat.strong_induction_on generalizing n e with
  | _ d ih =>
    by_cases hn' : n = root
    · exact ⟨e, hn' ▸ he⟩
    · have hne : n.toNat ≠ root.toNat := fun heq => hn' (BitVec.eq_of_toNat_eq heq)
      obtain ⟨m, b, hm, hm', rfl⟩ := h.exists_parent (n := n) (by omega)
      have hlt := h.childOf_lt hm hm' b
      exact ih _ (by omega) hm' (leafAtPath_cons_eq_some.mpr ⟨(h.internal _ hm hm').1, he⟩) rfl

theorem TreeShape.exists_rootPath_iff {x : Sym} :
    (∃ e, leafAtPath node root e = some x) ↔ x ∈ (List.range len).map fun i => (nodeAt node i).sym := by
  simp only [List.mem_map, List.mem_range]
  refine ⟨fun ⟨e, he⟩ => h.exists_leaf_of_path (h.root_internal hroot).2 he, fun ⟨i, hi, hsym⟩ => ?_⟩
  have hmax := h.le_max
  have hnat : (BitVec.ofNat 8 i).toNat = i := Nat.mod_eq_of_lt (by omega)
  refine h.exists_rootPath hroot (n := BitVec.ofNat 8 i) (e := []) (by omega) (leafAtPath_nil_eq_some.mpr ?_)
  rw [hnat]
  exact ⟨(h.leaves i hi).1, hsym⟩

/-! ### The code table of a full binary tree (R114, R117) -/

theorem TreeShape.nodup_leafPaths_syms : ((leafPaths node 128 root).map Prod.snd).Nodup := by
  refine (nodup_leafPaths node 128 root).map_on ?_
  rintro ⟨e, x⟩ he ⟨e', _⟩ he' rfl
  rw [h.rootPath_unique hroot (mem_leafPaths.mp he).2 (mem_leafPaths.mp he').2]

theorem TreeShape.mem_leafPaths_root {e : List Bool} {x : Sym} (he : leafAtPath node root e = some x) :
    (e, x) ∈ leafPaths node 128 root :=
  mem_leafPaths.mpr ⟨Nat.lt_succ_of_le (h.rootPath_length hroot he).2, he⟩

theorem TreeShape.codeOf_codeTable {e : List Bool} {x : Sym} (he : leafAtPath node root e = some x) :
    codeOf (codeTable node root) x = pathCode e := by
  rw [codeTable_eq_recordCodes]
  exact codeOf_recordCodes_of_mem (h.nodup_leafPaths_syms hroot) (h.mem_leafPaths_root hroot he) _

/-- A symbol is coded exactly when it is the symbol of a leaf (R114). -/
theorem TreeShape.coded_iff {x : Sym} :
    (codeOf (codeTable node root) x).len ≠ 0 ↔ ∃ e, leafAtPath node root e = some x := by
  refine ⟨fun hlen => not_forall_not.mp fun hx => hlen ?_, fun ⟨e, he⟩ => ?_⟩
  · rw [codeOf_codeTable_of_no_leaf hx]
  · obtain ⟨hne, hmax⟩ := h.rootPath_length hroot he
    rw [h.codeOf_codeTable hroot he]
    exact pathCode_len_ne_zero hmax hne

/-- The coded symbols are those of the walk's leaves, in some order. -/
theorem TreeShape.codedSyms_perm_leafPaths :
    (codedSyms (codeTable node root)).Perm ((leafPaths node 128 root).map Prod.snd) := by
  refine (List.perm_ext_iff_of_nodup (nodup_codedSyms _) (h.nodup_leafPaths_syms hroot)).mpr fun x => ?_
  rw [mem_codedSyms, h.coded_iff hroot, List.mem_map]
  refine ⟨fun ⟨_, he⟩ => ⟨_, h.mem_leafPaths_root hroot he, rfl⟩, ?_⟩
  rintro ⟨⟨e, _⟩, he, rfl⟩
  exact ⟨e, (mem_leafPaths.mp he).2⟩

/-- One symbol is coded for each leaf (R117). -/
theorem TreeShape.length_codedSyms : (codedSyms (codeTable node root)).length = len := by
  have hnodup : ((List.range len).map fun i => (nodeAt node i).sym).Nodup :=
    List.nodup_range.map_on fun i hi j hj => h.distinct i j (List.mem_range.mp hi) (List.mem_range.mp hj)
  have hperm := (List.perm_ext_iff_of_nodup (nodup_codedSyms _) hnodup).mpr fun _ =>
    mem_codedSyms.trans ((h.coded_iff hroot).trans (h.exists_rootPath_iff hroot))
  rw [hperm.length_eq, List.length_map, List.length_range]

/-- Kraft's equality for the table (R117). -/
theorem TreeShape.kraft_codedSyms : ((codedSyms (codeTable node root)).map fun x =>
    2 ^ (127 - (codeOf (codeTable node root) x).len.toNat)).sum = 2 ^ 127 := by
  have hmax := h.le_max
  rw [((h.codedSyms_perm_leafPaths hroot).map _).sum_eq, List.map_map,
    ← h.kraft_leafPaths 127 (h.root_internal hroot).2 (by omega)]
  congr 1
  refine List.map_congr_left fun ⟨e, x⟩ he => ?_
  have hx := (mem_leafPaths.mp he).2
  rw [Function.comp_apply, h.codeOf_codeTable hroot hx, pathCode_len (h.rootPath_length hroot hx).2]

end

/-- The valid tree of R62(b): its shape, its root and its number of nodes. -/
theorem State.treeAgrees.shape {s : State} (h : s.treeAgrees) (hv : s.status.treeValid = true) :
    ∃ len, TreeShape s.node len ∧ s.root.toNat = 2 * len - 2 ∧ s.nodeCnt.toNat + 1 = 2 * len := by
  obtain ⟨len, hcnt, hroot, shape⟩ := h hv
  have := shape.two_le
  exact ⟨len, shape, by omega, by omega⟩

end Sys2Proof.Machine

open Sys2Proof Sys2Proof.Machine

/-- Settles O37: without a tree the only check of BUILD_CODES answers NO_TREE. -/
theorem buildCodesNeedsATree : Obligations.BuildCodesNeedsATree := fun _ h =>
  primitive_fail (buildCodesStage_noTree h)

/-- Settles O38: the walk records each leaf's root path, and no leaf has two. -/
theorem buildCodesRecordsThePaths : Obligations.BuildCodesRecordsThePaths := by
  intro s hs hv
  obtain ⟨len, shape, hroot, -⟩ := hs.shape hv
  refine ⟨_, primitive_ok (buildCodesStage_valid hv), rfl, fun x e he => ?_, fun x hx => ?_⟩
  · have hlen := (shape.rootPath_length hroot he).2
    rw [State.succeed_code, shape.codeOf_codeTable hroot he]
    exact ⟨pathCode_len hlen, pathCode_bits hlen, codeBits_pathCode hlen⟩
  · rw [State.succeed_code, codeOf_codeTable_of_no_leaf hx]
    exact ⟨rfl, rfl⟩

/-- Settles O39: the coded symbols are the leaves' symbols and their codes are the root paths, so the properties are
those of the paths of a full binary tree. -/
theorem codesArePrefixFreeAndComplete : Obligations.CodesArePrefixFreeAndComplete := by
  intro s hs hv
  obtain ⟨len, shape, hroot, hcnt⟩ := hs.shape hv
  have bits {x : Sym} {e : List Bool} (he : leafAtPath s.node s.root e = some x) :
      codeBits (codeOf (codeTable s.node s.root) x) = e := by
    rw [shape.codeOf_codeTable hroot he, codeBits_pathCode (shape.rootPath_length hroot he).2]
  refine ⟨_, primitive_ok (buildCodesStage_valid hv), fun x y hx hy hxy hp => ?_, fun x hx => ?_, ?_, ?_⟩
  · obtain ⟨e, he⟩ := (shape.coded_iff hroot).mp hx
    obtain ⟨e', he'⟩ := (shape.coded_iff hroot).mp hy
    rw [State.succeed_code, bits he, bits he'] at hp
    exact hxy (eq_of_leafAtPath_prefix he he' hp)
  · obtain ⟨e, he⟩ := (shape.coded_iff hroot).mp hx
    obtain ⟨hne, hmax⟩ := shape.rootPath_length hroot he
    rw [State.succeed_code, bits he, shape.codeOf_codeTable hroot he, pathCode_len hmax]
    exact ⟨hne, hmax⟩
  · exact shape.kraft_codedSyms hroot
  · exact (shape.length_codedSyms hroot).trans (by omega)
end

section
/-! PROOFS. The bit packer, ENCODE and PACK (43_pack.md): the bits of the packed bytes, what the commit of a packed
payload leaves in PK, and the checks of the two commands in their order. -/

namespace Sys2Proof.Machine

/-! ### The packed bytes (R119, R121) -/

theorem headerAndPayload_eq (b : List Bool) : headerAndPayload b = paddingHeader b.length ++ b := by
  rw [paddingHeader, List.append_assoc, List.singleton_append, headerAndPayload]

theorem expandBytes_packBits (b : List Bool) : expandBytes (packBits b) = headerAndPayload b := by
  rw [headerAndPayload_eq, packBits, expandBytes_groupBytes _ (by rw [header_length, Nat.mul_mod_right])]

/-- An accumulator that does not fill up writes nothing. -/
theorem packSerial_unfilled {l : List Bool} {acc : Byte} {f : Nat} (h : f + l.length < 8) :
    packSerial acc f l = [] := by
  induction l generalizing acc f with
  | nil => rfl
  | cons b l ih =>
    rw [List.length_cons] at h
    rw [packSerial, if_neg (by omega), ih (by omega)]

/-- Eight bits fill an empty accumulator with the byte that they group to. -/
theorem packSerial_group (b0 b1 b2 b3 b4 b5 b6 b7 : Bool) (rest : List Bool) :
    packSerial 0 0 (b0 :: b1 :: b2 :: b3 :: b4 :: b5 :: b6 :: b7 :: rest) =
      BitVec.ofNat 8 (bitsValue [b0, b1, b2, b3, b4, b5, b6, b7]) :: packSerial 0 0 rest := by
  simp only [packSerial, Nat.reduceAdd, Nat.reduceEqDiff, ↓reduceIte]
  congr 1
  revert b0 b1 b2 b3 b4 b5 b6 b7
  decide

theorem packSerial_eq_groupBytes (l : List Bool) : packSerial 0 0 l = groupBytes l := by
  fun_induction groupBytes l with
  | case1 b0 b1 b2 b3 b4 b5 b6 b7 rest ih => rw [packSerial_group, ih]
  | case2 l h =>
    have hlen := groupBytes_length l
    rw [groupBytes.eq_2 l h, List.length_nil] at hlen
    exact packSerial_unfilled (by omega)

/-! ### The commit of a packed payload (R120, R123, R124) -/

section
variable {s : State} {b : List Bool} (hfit : packedSize b.length ≤ s.params.maxPk.size)

/-- A completed command that has packed `b` writes memory, PK_LEN, BITCNT and the completion fields alone. -/
theorem commitPacked_succeed_eq : (s.commitPacked b).succeed = { s with
    mem := (s.commitPacked b).succeed.mem
    pkLen := (s.commitPacked b).succeed.pkLen
    bitCnt := (s.commitPacked b).succeed.bitCnt
    phase := .idle
    status := { s.status with done := true, err := false, errCode := .none } } := rfl

/-- A completed command that has packed `b` differs from its start in the first bytes of PK alone. -/
theorem sameRamBut_commitPacked : SameRamBut .pk (packedSize b.length) s (s.commitPacked b).succeed := by
  intro a ha
  rw [← packBits_length] at ha
  exact s.ram_setElems_other .pk (packBits b) ha

include hfit

theorem pkLen_commitPacked : (s.commitPacked b).pkLen.toNat = packedSize b.length := by
  have := s.params.maxPk.le
  exact Nat.mod_eq_of_lt (by omega)

theorem bitCnt_commitPacked : (s.commitPacked b).bitCnt.toNat = b.length := by
  have := s.params.maxPk.le
  unfold packedSize at hfit
  exact Nat.mod_eq_of_lt (by omega)

/-- PK[0..PK_LEN-1] is the packed payload. -/
theorem pk_commitPacked : (s.commitPacked b).succeed.elems .pk (s.commitPacked b).succeed.pkLen.toNat = packBits b := by
  have hlen : (s.commitPacked b).succeed.pkLen.toNat = (packBits b).length :=
    (pkLen_commitPacked hfit).trans (packBits_length b).symm
  refine List.ext_getElem (by rw [State.elems_length, hlen]) fun i _ hi => ?_
  rw [State.elems_getElem]
  exact s.elem_setElems_same .pk (packBits b) hi

theorem holds_commitPacked : (s.commitPacked b).succeed.Holds b where
  pkLen := pkLen_commitPacked hfit
  bitCnt := bitCnt_commitPacked hfit
  bits k hk := by
    have hlen : (s.commitPacked b).succeed.pkLen.toNat = b.length / 8 + 1 := pkLen_commitPacked hfit
    rw [← getElem?_expand_pk _ (by rwa [hlen]), pk_commitPacked hfit, expandBytes_packBits]

end

/-! ### The validation pass of ENCODE (R123) -/

/-- A byte passes both checks of the validation pass: it is a symbol, and the symbol has a code. -/
def ByteCoded (code : Vector CodeEntry 128) (b : Byte) : Prop :=
  b.getLsbD 7 = false ∧ (codeOf code (symOf b)).len ≠ 0

section
variable {code : Vector CodeEntry 128} {b : Byte} (bs : List Byte)

theorem payloadLength_cons_coded (h : ByteCoded code b) :
    payloadLength code (b :: bs) = ((codeOf code (symOf b)).len.toNat + ·) <$> payloadLength code bs := by
  obtain ⟨hsym, hlen⟩ := h
  rw [payloadLength, isSymbol, hsym, Bool.not_false, if_pos rfl, if_neg hlen]
  cases payloadLength code bs <;> rfl

theorem payloadLength_cons_invalidSymbol (h : b.getLsbD 7 = true) :
    payloadLength code (b :: bs) = .error .invalidSymbol := by
  rw [payloadLength, isSymbol, h, Bool.not_true, if_neg Bool.false_ne_true]

theorem payloadLength_cons_noCode (hsym : b.getLsbD 7 = false) (hlen : (codeOf code (symOf b)).len = 0) :
    payloadLength code (b :: bs) = .error .noCode := by
  rw [payloadLength, isSymbol, hsym, Bool.not_false, if_pos rfl, if_pos hlen]

end

section
variable {code : Vector CodeEntry 128} {xs : List Byte} (h : ∀ b ∈ xs, ByteCoded code b)
include h

/-- The pass adds up the lengths of the codes of coded bytes. -/
theorem payloadLength_coded : payloadLength code xs = .ok (payloadBits code xs).length := by
  induction xs with
  | nil => rfl
  | cons b xs ih =>
    obtain ⟨hb, hxs⟩ := List.forall_mem_cons.mp h
    rw [payloadLength_cons_coded xs hb, ih hxs]
    simp [payloadBits, codeBits]

/-- Behind coded bytes the first failure is the failure of the pass. -/
theorem payloadLength_append_error {ys : List Byte} {c : ErrCode} (hys : payloadLength code ys = .error c) :
    payloadLength code (xs ++ ys) = .error c := by
  induction xs with
  | nil => exact hys
  | cons b xs ih =>
    obtain ⟨hb, hxs⟩ := List.forall_mem_cons.mp h
    rw [List.cons_append, payloadLength_cons_coded _ hb, ih hxs]
    rfl

end

/-- The elements of a buffer up to an index, the element there and the later ones. -/
theorem State.elems_split (s : State) (b : Buffer) {i n : Nat} (h : i < n) :
    ∃ rest, s.elems b n = s.elems b i ++ s.elem b i :: rest := by
  obtain ⟨k, rfl⟩ := Nat.exists_eq_add_of_lt h
  refine ⟨(List.range k).map fun j => s.elem b (i + (j + 1)), ?_⟩
  rw [State.elems, Nat.add_assoc, List.range_add, List.range_succ_eq_map]
  simp [State.elems]

theorem State.forall_mem_elems {s : State} {b : Buffer} {n : Nat} {p : Byte → Prop} :
    (∀ x ∈ s.elems b n, p x) ↔ ∀ i, i < n → p (s.elem b i) := by
  simp [State.elems]

/-- The payload of ENCODE said by the symbols of the input. -/
theorem payloadBits_input (s : State) : payloadBits s.code (s.elems .inp s.inLen.toNat) =
    s.inputSyms.flatMap fun x => codeBits (codeOf s.code x) := by
  rw [State.inputSyms, List.flatMap_map, payloadBits]

theorem length_codes (code : Vector CodeEntry 128) (l : List Sym) :
    (l.flatMap fun x => codeBits (codeOf code x)).length = (l.map fun x => (codeOf code x).len.toNat).sum := by
  simp [List.length_flatMap, codeBits]

/-! ### ENCODE by its checks (R123) -/

theorem encodeStage_badLength {s : State} (h : s.params.maxIn.size < s.inLen.toNat) :
    encodeStage s = .error .badLength :=
  if_pos h

theorem encodeStage_empty {s : State} (h : s.inLen = 0) : encodeStage s = .ok (s.commitPacked []) := by
  rw [encodeStage, if_neg (by simp [h]), if_pos h]

theorem State.inLen_ne_zero {s : State} (h : 0 < s.inLen.toNat) : s.inLen ≠ 0 := fun h0 =>
  h.ne' (congrArg BitVec.toNat h0)

section
variable {s : State} (hlen : s.inLen.toNat ≤ s.params.maxIn.size) (hpos : 0 < s.inLen.toNat)
include hlen hpos

theorem encodeStage_noTable (hcodes : s.status.codesValid = false) : encodeStage s = .error .noTable := by
  rw [encodeStage, if_neg hlen.not_gt, if_neg (State.inLen_ne_zero hpos), hcodes, if_neg Bool.false_ne_true]

variable (hcodes : s.status.codesValid = true)
include hcodes

theorem encodeStage_invalidInput {c : ErrCode} (h : payloadLength s.code (s.elems .inp s.inLen.toNat) = .error c) :
    encodeStage s = .error c := by
  rw [encodeStage, if_neg hlen.not_gt, if_neg (State.inLen_ne_zero hpos), if_pos hcodes, h]

/-- Input of coded bytes is packed where it fits. -/
theorem encodeStage_coded (h : ∀ b ∈ s.elems .inp s.inLen.toNat, ByteCoded s.code b) : encodeStage s =
    if s.params.maxPk.size < packedSize (s.inputSyms.flatMap fun x => codeBits (codeOf s.code x)).length then
      .error .outOverflow
    else .ok (s.commitPacked (s.inputSyms.flatMap fun x => codeBits (codeOf s.code x))) := by
  rw [encodeStage, if_neg hlen.not_gt, if_neg (State.inLen_ne_zero hpos), if_pos hcodes,
    payloadLength_coded h, payloadBits_input]

end

/-! ### PACK by its checks (R122, R124) -/

/-- BITS[0..BIT_LEN-1] holds bit characters only. -/
def State.BitsLegal (s : State) : Prop :=
  ∀ i, i < s.bitLen.toNat → s.elem .bits i = 0x30 ∨ s.elem .bits i = 0x31

/-- The bits are legal where the check of R124 finds no other byte. -/
theorem bitsLegal_iff (s : State) :
    s.BitsLegal ↔ (s.elems .bits s.bitLen.toNat).any (fun c => !isBitChar c) = false := by
  simp [State.BitsLegal, List.any_eq_false, State.mem_elems, isBitChar, or_iff_not_imp_left]

theorem packStage_badLength {s : State} (h : s.params.maxBits.size < s.bitLen.toNat) :
    packStage s = .error .badLength :=
  if_pos h

section
variable {s : State} (hlen : s.bitLen.toNat ≤ s.params.maxBits.size)
include hlen

theorem packStage_invalidBitChar (h : ¬ s.BitsLegal) : packStage s = .error .invalidBitChar := by
  rw [bitsLegal_iff, Bool.not_eq_false] at h
  rw [packStage, if_neg hlen.not_gt, if_pos h]

/-- Legal bit characters are packed where they fit. -/
theorem packStage_legal (h : s.BitsLegal) : packStage s =
    if s.params.maxPk.size < packedSize s.bitLen.toNat then .error .outOverflow
    else .ok (s.commitPacked ((s.elems .bits s.bitLen.toNat).map fun c => c == 0x31)) := by
  rw [bitsLegal_iff] at h
  rw [packStage, if_neg hlen.not_gt, if_neg (Bool.eq_false_iff.mp h)]
  rfl

end

end Sys2Proof.Machine

open Sys2Proof Sys2Proof.Machine

/-- Settles O40: header and payload make whole bytes, and expanding grouped bits gives them back. -/
theorem packedBytesSpellHeaderAndPayload : Obligations.PackedBytesSpellHeaderAndPayload := fun b =>
  ⟨packBits_length b, expandBytes_packBits b⟩

/-- Settles O41: the accumulator groups any bit list, header and payload among them. -/
theorem serialPackerRefinesPackBits : Obligations.SerialPackerRefinesPackBits := fun b => by
  rw [packSerial_eq_groupBytes, headerAndPayload_eq, packBits]

/-- Settles O42: every check passes, and the commit leaves the packed codes in PK. -/
theorem encodePacksTheCodes : Obligations.EncodePacksTheCodes := by
  intro s hpos hlen hcodes hlegal hcoded hfit
  have hgood : ∀ b ∈ s.elems .inp s.inLen.toNat, ByteCoded s.code b := State.forall_mem_elems.mpr fun i hi =>
    ⟨hlegal i hi, hcoded _ (List.mem_map_of_mem (State.mem_elems.mpr ⟨i, hi, rfl⟩))⟩
  have hstage := (encodeStage_coded hlen hpos hcodes hgood).trans (if_neg hfit.not_gt)
  exact ⟨_, primitive_ok hstage, commitPacked_succeed_eq, holds_commitPacked hfit, sameRamBut_commitPacked⟩

/-- Settles O43: the empty payload is the header byte alone. -/
theorem encodeOfNothing : Obligations.EncodeOfNothing := fun s h =>
  ⟨_, primitive_ok (encodeStage_empty h), rfl, s.elem_setElems_same .pk (packBits []) Nat.one_pos,
    sameRamBut_commitPacked (b := [])⟩

/-- Settles O44: each check answers its code before anything is committed; the bytes before the failing index
pass the validation. -/
theorem encodeFails : Obligations.EncodeFails := by
  intro s failed goodAt
  refine ⟨fun hlen => primitive_fail (encodeStage_badLength hlen),
    fun hlen hpos hcodes => primitive_fail (encodeStage_noTable hlen hpos hcodes),
    fun hlen hcodes i hi hgood => ?_, fun hlen hpos hcodes hgood hfit => ?_⟩
  · have firstFailure {c : ErrCode} (h : ∀ bs, payloadLength s.code (s.elem .inp i :: bs) = .error c) :
        exec .encode s = .next (failed c) := by
      obtain ⟨rest, hsplit⟩ := s.elems_split .inp hi
      refine primitive_fail (encodeStage_invalidInput hlen (by omega) hcodes ?_)
      rw [hsplit]
      exact payloadLength_append_error (State.forall_mem_elems.mpr hgood) (h rest)
    exact ⟨fun hbad => firstFailure fun bs => payloadLength_cons_invalidSymbol bs hbad,
      fun hsym hnone => firstFailure fun bs => payloadLength_cons_noCode bs hsym hnone⟩
  · rw [← length_codes] at hfit
    exact primitive_fail ((encodeStage_coded hlen hpos hcodes (State.forall_mem_elems.mpr hgood)).trans
      (if_pos hfit))

/-- Settles O45: every check passes, and the commit leaves the packed bits in PK. -/
theorem packPacksTheBits : Obligations.PackPacksTheBits := by
  intro s hlen hlegal hfit
  have hstage := (packStage_legal hlen hlegal).trans (if_neg hfit.not_gt)
  have hcount : ((s.elems .bits s.bitLen.toNat).map fun c => c == 0x31).length = s.bitLen.toNat := by
    rw [List.length_map, State.elems_length]
  generalize (s.elems .bits s.bitLen.toNat).map (fun c => c == 0x31) = b at hstage hcount ⊢
  rw [← hcount] at hfit ⊢
  refine ⟨_, primitive_ok hstage, ?_, holds_commitPacked hfit, sameRamBut_commitPacked⟩
  rw [State.commitPacked, hcount, BitVec.ofNat_toNat, BitVec.setWidth_eq]
  rfl

/-- Settles O46: each check answers its code before anything is committed. -/
theorem packFails : Obligations.PackFails := fun _ =>
  ⟨fun hlen => primitive_fail (packStage_badLength hlen),
    fun hlen hlegal => primitive_fail (packStage_invalidBitChar hlen hlegal),
    fun hlen hlegal hfit => primitive_fail ((packStage_legal hlen hlegal).trans (if_pos hfit))⟩
end

section
/-! PROOFS. The bit unpacker and the decoder (44_unpack.md): the checks of UNPACK and DECODE in their order, said by the
stripped stream bits, and the traversal of a sequence of code words and of a part of one. -/

namespace Sys2Proof.Machine

/-! ### UNPACK and DECODE by their checks (R127, R130) -/

theorem unpackStage_badLength {s : State} (h : s.params.maxPk.size < s.pkLen.toNat) :
    unpackStage s = .error .badLength :=
  if_pos h

theorem decodeStage_badLength {s : State} (h : s.params.maxPk.size < s.pkLen.toNat) :
    decodeStage s = .error .badLength :=
  if_pos h

theorem State.streamFrom_eq_nil_iff {s : State} {p : Nat} : s.streamFrom p = [] ↔ 8 * s.pkLen.toNat ≤ p := by
  rw [← List.length_eq_zero_iff, State.streamFrom_length, Nat.sub_eq_zero_iff_le]

section
variable {s : State} {p : Nat} {fallback : Bool} (hlen : s.pkLen.toNat ≤ s.params.maxPk.size)
include hlen

/-- A number of payload bits fits a length register. -/
theorem toNat_payloadLength (p : Nat) : (BitVec.ofNat 32 (8 * s.pkLen.toNat - p)).toNat = 8 * s.pkLen.toNat - p := by
  have := s.params.maxPk.le
  exact Nat.mod_eq_of_lt (by omega)

variable (hs : s.Strips p fallback)
include hs

theorem unpackStage_strips : unpackStage s =
    if s.params.maxBits.size < 8 * s.pkLen.toNat - p then .error .outOverflow
    else .ok { s.setElems .bits ((s.streamFrom p).map bitChar) with
      bitLen := BitVec.ofNat 32 (8 * s.pkLen.toNat - p)
      bitCnt := BitVec.ofNat 32 (8 * s.pkLen.toNat - p)
      status := s.status.setPadFallback fallback } := by
  rw [unpackStage, if_neg hlen.not_gt, payload_of_strips hs, State.streamFrom_length]

theorem decodeStage_empty (hp : 8 * s.pkLen.toNat ≤ p) : decodeStage s = .ok { s with
    decLen := 0
    bitCnt := 0
    status := (s.status.setPadFallback fallback).setTrailing false } := by
  rw [decodeStage, if_neg hlen.not_gt, payload_of_strips hs, if_pos (State.streamFrom_eq_nil_iff.mpr hp)]

variable (hp : p < 8 * s.pkLen.toNat)
include hp

theorem decodeStage_noTree (hv : s.status.treeValid = false) : decodeStage s = .error .noTree := by
  rw [decodeStage, if_neg hlen.not_gt, payload_of_strips hs, if_neg (mt State.streamFrom_eq_nil_iff.mp hp.not_ge),
    hv, if_neg Bool.false_ne_true]

/-- A payload that is not empty is decoded with the valid tree where its symbols fit DEC. -/
theorem decodeStage_traverses (hv : s.status.treeValid = true) {out : List Sym} {last : BitVec 8}
    (hout : traverse s.node s.root s.root (s.streamFrom p) = (out, last)) : decodeStage s =
    if s.params.maxDec.size < out.length then .error .outOverflow
    else .ok { s.setElems .dec (out.map (BitVec.setWidth 8)) with
      decLen := BitVec.ofNat 32 out.length
      bitCnt := BitVec.ofNat 32 (8 * s.pkLen.toNat - p)
      status := (s.status.setPadFallback fallback).setTrailing (last != s.root) } := by
  rw [decodeStage, if_neg hlen.not_gt, State.decoded, payload_of_strips hs,
    if_neg (mt State.streamFrom_eq_nil_iff.mp hp.not_ge), if_pos hv, hout, State.streamFrom_length]

end

/-! ### The traversal (R129, R131) -/

section
variable {node : Vector NodeEntry 255} {root cur : BitVec 8}

theorem traverse_cons_leaf {b : Bool} (h : (nodeAt node (childOf node cur b).toNat).leaf = true) (l : List Bool) :
    traverse node root cur (b :: l) =
      ((nodeAt node (childOf node cur b).toNat).sym :: (traverse node root root l).1,
        (traverse node root root l).2) := by
  rw [traverse, if_pos h]

theorem traverse_cons_internal {b : Bool} (h : (nodeAt node (childOf node cur b).toNat).leaf = false)
    (l : List Bool) : traverse node root cur (b :: l) = traverse node root (childOf node cur b) l := by
  rw [traverse, if_neg (Bool.eq_false_iff.mp h)]

/-- A path to a leaf emits its symbol, and the traversal goes on from the root. -/
theorem traverse_path {e : List Bool} {x : Sym} (hne : e ≠ []) (h : leafAtPath node cur e = some x) (l : List Bool) :
    traverse node root cur (e ++ l) = (x :: (traverse node root root l).1, (traverse node root root l).2) := by
  induction e generalizing cur with
  | nil => exact absurd rfl hne
  | cons b e ih =>
    obtain ⟨-, hchild⟩ := leafAtPath_cons_eq_some.mp h
    cases e with
    | nil =>
      obtain ⟨hleaf, rfl⟩ := leafAtPath_nil_eq_some.mp hchild
      exact traverse_cons_leaf hleaf l
    | cons c e =>
      have hinternal := (leafAtPath_cons_eq_some.mp hchild).1
      exact (traverse_cons_internal hinternal _).trans (ih (List.cons_ne_nil c e) hchild)

/-- A sequence of code words emits their symbols, and the traversal goes on from the root. -/
theorem traverse_words {words : List (List Bool × Sym)}
    (h : ∀ c ∈ words, c.1 ≠ [] ∧ leafAtPath node root c.1 = some c.2) (l : List Bool) :
    traverse node root root (words.flatMap Prod.fst ++ l) =
      (words.map Prod.snd ++ (traverse node root root l).1, (traverse node root root l).2) := by
  induction words with
  | nil => rfl
  | cons c words ih =>
    obtain ⟨⟨hne, hc⟩, hwords⟩ := List.forall_mem_cons.mp h
    rw [List.flatMap_cons, List.append_assoc, traverse_path hne hc, ih hwords]
    rfl

/-- A part that reaches no leaf emits nothing, and each of its steps leads further down. -/
theorem TreeShape.traverse_part {len : Nat} (shape : TreeShape node len) (hcur : cur.toNat < 2 * len - 1)
    {part : List Bool} (h : ∀ k, k ≤ part.length → leafAtPath node cur (part.take k) = none) :
    ∃ last, traverse node root cur part = ([], last) ∧ last.toNat + part.length ≤ cur.toNat := by
  have internal {n : BitVec 8} (hn : leafAtPath node n [] = none) : (nodeAt node n.toNat).leaf = false := by
    simpa [leafAtPath] using hn
  induction part generalizing cur with
  | nil => exact ⟨cur, rfl, le_rfl⟩
  | cons b part ih =>
    have hleaf := internal (h 0 (Nat.zero_le _))
    have hchild : ∀ k, k ≤ part.length → leafAtPath node (childOf node cur b) (part.take k) = none := by
      intro k hk
      have := h (k + 1) (Nat.succ_le_succ hk)
      rwa [List.take_succ_cons, leafAtPath, if_neg (Bool.eq_false_iff.mp hleaf)] at this
    have hlt := shape.childOf_lt (shape.le_of_not_leaf hleaf) hcur b
    obtain ⟨last, hlast, hle⟩ := ih (hlt.trans hcur) hchild
    refine ⟨last, (traverse_cons_internal (internal (hchild 0 (Nat.zero_le _))) part).trans hlast, ?_⟩
    rw [List.length_cons]
    omega

/-- After a part that reaches no leaf the cursor is off the root exactly where the part is not empty (R131). -/
theorem TreeShape.traverse_part_root {len : Nat} (shape : TreeShape node len) (hroot : root.toNat < 2 * len - 1)
    {part : List Bool} (h : ∀ k, k ≤ part.length → leafAtPath node root (part.take k) = none) :
    ∃ last, traverse node root root part = ([], last) ∧ (last != root) = decide (part ≠ []) := by
  obtain ⟨last, hlast, hle⟩ := shape.traverse_part (root := root) hroot h
  refine ⟨last, hlast, ?_⟩
  cases part with
  | nil =>
    cases hlast
    simp
  | cons b part =>
    have hne : last ≠ root := by
      rintro rfl
      rw [List.length_cons] at hle
      omega
    simp [hne]

end

/-! ### The marker of a packed payload (R120, R128) -/

section
variable {t : State} {b : List Bool} (h : t.Holds b)
include h

/-- The stream is the header and the payload, bit for bit. -/
theorem State.Holds.streamBit_eq {k : Nat} {v : Bool} (hk : (headerAndPayload b)[k]? = some v) :
    t.streamBit k = v := by
  have hlen := header_length b
  rw [← headerAndPayload_eq] at hlen
  obtain ⟨hlt, -⟩ := List.getElem?_eq_some_iff.mp hk
  exact Option.some.inj ((h.bits k (hlt.trans_eq hlen)).symm.trans hk)

theorem State.Holds.streamBit_header {k : Nat} (hk : k < 8 - b.length % 8 - 1) : t.streamBit k = false := by
  refine h.streamBit_eq ?_
  rw [headerAndPayload, List.getElem?_append_left (by rwa [List.length_replicate]), List.getElem?_replicate_of_lt hk]

theorem State.Holds.streamBit_marker : t.streamBit (8 - b.length % 8 - 1) = true := by
  refine h.streamBit_eq ?_
  rw [headerAndPayload, List.getElem?_append_right (by rw [List.length_replicate]), List.length_replicate,
    Nat.sub_self, List.getElem?_cons_zero]

theorem State.Holds.streamBit_payload {i : Nat} {v : Bool} (hi : b[i]? = some v) :
    t.streamBit (8 - b.length % 8 + i) = v := by
  have hk : 8 - b.length % 8 + i = (8 - b.length % 8 - 1) + (i + 1) := by omega
  refine h.streamBit_eq ?_
  rw [headerAndPayload, hk, List.getElem?_append_right (by rw [List.length_replicate]; omega), List.length_replicate,
    Nat.add_sub_cancel_left, List.getElem?_cons_succ, hi]

/-- Up to the marker the header is stripped. -/
theorem State.Holds.strips : t.Strips (8 - b.length % 8) false :=
  have hlen := h.pkLen
  .inl ⟨8 - b.length % 8 - 1, by omega, by omega, h.streamBit_marker, fun _ => h.streamBit_header, by omega, rfl⟩

theorem State.Holds.payload_size : 8 * t.pkLen.toNat - (8 - b.length % 8) = b.length := by
  have := h.pkLen
  omega

/-- What is left is the payload. -/
theorem State.Holds.streamFrom_eq : t.streamFrom (8 - b.length % 8) = b := by
  refine List.ext_getElem (by rw [State.streamFrom_length, h.payload_size]) fun i _ hi => ?_
  simp [State.streamFrom, h.streamBit_payload (List.getElem?_eq_getElem hi)]

end

end Sys2Proof.Machine

open Sys2Proof Sys2Proof.Machine

/-- Settles O47: every check passes, and the payload is the stream from the stripped bits on. -/
theorem unpackWritesThePayload : Obligations.UnpackWritesThePayload := by
  intro s p fallback hlen hs hfit
  have hcount : ((s.streamFrom p).map bitChar).length = 8 * s.pkLen.toNat - p := by
    rw [List.length_map, State.streamFrom_length]
  refine ⟨_, primitive_ok ((unpackStage_strips hlen hs).trans (if_neg hfit.not_gt)), rfl,
    toNat_payloadLength hlen p, fun i hi => ?_, fun a ha => ?_⟩
  · refine (s.elem_setElems_same .bits _ (by rwa [hcount])).trans ?_
    simp [State.streamFrom, bitChar]
  · exact s.ram_setElems_other .bits _ (by rwa [hcount])

/-- Settles O48: each check answers its code before anything is committed. -/
theorem unpackFails : Obligations.UnpackFails := fun _ =>
  ⟨fun hlen => primitive_fail (unpackStage_badLength hlen),
    fun _ _ hlen hs hfit => primitive_fail ((unpackStage_strips hlen hs).trans (if_pos hfit))⟩

/-- Settles O49: PACK leaves header and payload in the stream, and UNPACK strips the header up to its marker. -/
theorem unpackInvertsPack : Obligations.UnpackInvertsPack := by
  intro s hlen hlegal hfit
  obtain ⟨t, hpack, ht, hholds, -⟩ := packPacksTheBits s hlen hlegal hfit
  have hparams : t.params = s.params := by rw [ht]
  have hcount : ((s.elems .bits s.bitLen.toNat).map fun c => c == 0x31).length = s.bitLen.toNat := by
    rw [List.length_map, State.elems_length]
  have hbit {i : Nat} (hi : i < s.bitLen.toNat) :
      ((s.elems .bits s.bitLen.toNat).map fun c => c == 0x31)[i]? = some (s.elem .bits i == 0x31) := by
    simp [State.elems, hi]
  generalize (s.elems .bits s.bitLen.toNat).map (fun c => c == 0x31) = b at hholds hcount hbit
  have hpk := hholds.pkLen
  have hsize := hholds.payload_size
  obtain ⟨u, hunpack, hu, hbitLen, hbits, -⟩ := unpackWritesThePayload t _ _ (by rwa [hpk, hcount, hparams])
    hholds.strips (by rwa [hsize, hcount, hparams])
  rw [hsize, hcount] at hbitLen hbits
  rw [← hcount]
  refine ⟨t, u, hpack, hunpack, by rw [ht], by rw [hu], by rw [hu], BitVec.eq_of_toNat_eq hbitLen, fun i hi => ?_,
    hholds.streamBit_marker, fun _ => hholds.streamBit_header⟩
  rw [hcount] at hi
  rw [hbits i hi, ← hcount, hholds.streamBit_payload (hbit hi)]
  rcases hlegal i hi with h | h <;> simp [h]

/-- Settles O50: in each of the three payloads all bits are stripped, and nothing else is looked at. -/
theorem decodeOfNothing : Obligations.DecodeOfNothing := by
  intro s h
  have hlen : s.pkLen.toNat ≤ s.params.maxPk.size := by
    have := s.params.maxPk.pos
    omega
  have empty {p : Nat} {fallback : Bool} (hs : s.Strips p fallback) (hp : 8 * s.pkLen.toNat ≤ p)
      (hf : fallback = decide (s.pkLen.toNat = 0 ∨ s.elem .pk 0 = 0x00)) :
      exec .decode s = .next { s with
        decLen := 0
        bitCnt := 0
        phase := .idle
        status := { s.status with
          done := true, err := false, errCode := .none, trailing := false
          padFallback := decide (s.pkLen.toNat = 0 ∨ s.elem .pk 0 = 0x00) } } :=
    hf ▸ primitive_ok (decodeStage_empty hlen hs hp)
  rcases h with h0 | ⟨h1, hpk | hpk⟩
  · exact empty (p := 0) (fallback := true) (.inr ⟨fun k _ hk => by omega, by omega, rfl⟩) (by omega) (by simp [h0])
  · refine empty (p := 8) (fallback := false) (.inl ⟨7, by omega, by omega, ?_, fun k hk => ?_, rfl, rfl⟩) (by omega)
      (by simp [h1, hpk])
    · simp [State.streamBit, hpk]
    · rw [State.streamBit, Nat.div_eq_of_lt (by omega), hpk]
      interval_cases k <;> rfl
  · refine empty (p := 8) (fallback := true) (.inr ⟨fun k hk _ => ?_, by omega, rfl⟩) (by omega)
      (by simp [hpk])
    rw [State.streamBit, Nat.div_eq_of_lt hk, hpk]
    simp

/-- Settles O51: the traversal emits the symbols of the words and ends inside the part. -/
theorem decodeEmitsTheCodeWords : Obligations.DecodeEmitsTheCodeWords := by
  intro s p fallback words part htree hv hlen hs hp hstream hwords hpart hfit
  obtain ⟨len, shape, hroot, -⟩ := htree.shape hv
  obtain ⟨last, hlast, htrailing⟩ := shape.traverse_part_root (shape.root_internal hroot).2 hpart
  have hout : traverse s.node s.root s.root (s.streamFrom p) = (words.map Prod.snd, last) := by
    rw [hstream, traverse_words fun c hc => ⟨(shape.rootPath_length hroot (hwords c hc)).1, hwords c hc⟩, hlast,
      List.append_nil]
  have hstage := decodeStage_traverses hlen hs hp hv hout
  rw [List.length_map, if_neg hfit.not_gt, htrailing] at hstage
  refine ⟨_, primitive_ok hstage, rfl, ?_, toNat_payloadLength hlen p, fun i hi => ?_, fun a ha => ?_⟩
  · have := s.params.maxDec.le
    exact Nat.mod_eq_of_lt (by omega)
  · refine (congrArg BitVec.toNat (s.elem_setElems_same .dec _ (by simpa using hi))).trans ?_
    have := words[i].2.isLt
    simp only [List.getElem_map, BitVec.toNat_setWidth]
    omega
  · exact s.ram_setElems_other .dec _ (by simpa using ha)

/-- Settles O52: each check answers its code before anything is committed; the words' symbols alone overflow DEC. -/
theorem decodeFails : Obligations.DecodeFails := by
  intro s failed
  refine ⟨fun hlen => primitive_fail (decodeStage_badLength hlen), fun p fallback hlen hs =>
    ⟨fun hp hv => primitive_fail (decodeStage_noTree hlen hs hp hv), fun words rest hv hstream hwords hfit => ?_⟩⟩
  have hp : p < 8 * s.pkLen.toNat := by
    refine not_le.mp (mt State.streamFrom_eq_nil_iff.mpr ?_)
    obtain ⟨c, hc⟩ := List.exists_mem_of_length_pos ((Nat.zero_le _).trans_lt hfit)
    rw [hstream, List.append_eq_nil_iff, List.flatMap_eq_nil_iff]
    exact fun h => (hwords c hc).1 (h.1 c hc)
  have hout := traverse_words hwords rest
  rw [← hstream] at hout
  refine primitive_fail ((decodeStage_traverses hlen hs hp hv hout).trans (if_pos ?_))
  rw [List.length_append, List.length_map]
  omega
end

section
/-! PROOFS. The round trip of ENCODE_ALL and DECODE (R132): what a successful ENCODE_ALL has run, what its stages have
checked, and the code words of its result. -/

namespace Sys2Proof.Machine

/-! ### What a successful ENCODE_ALL has run (R135) -/

/-- A run without an error has run its last stage on a run without an error. -/
theorem Run.stage_eq_ok {r : Run} {f : Stage} {t : State} (h : r.stage f = ⟨t, none⟩) :
    ∃ s, r = ⟨s, none⟩ ∧ f s = .ok t := by
  obtain ⟨s, _ | c⟩ := r
  · cases hf : f s with
    | ok u => rw [Run.stage_ok hf] at h; cases h; exact ⟨s, rfl, hf⟩
    | error c => rw [Run.stage_fail hf] at h; cases h
  · cases h

/-- The tree stages ran where SORT left at least two entries, and there both succeeded. -/
theorem Run.treeStages_eq_ok {r : Run} {t : State} (h : r.treeStages = ⟨t, none⟩) : ∃ s, r = ⟨s, none⟩ ∧
    ((2 ≤ s.slistLen.toNat ∧ ∃ u, buildTreeStage s = .ok u ∧ buildCodesStage u = .ok t) ∨
      (s.slistLen.toNat < 2 ∧ t = s)) := by
  unfold Run.treeStages at h
  split_ifs at h with h2
  · obtain ⟨u, hu, hcodes⟩ := Run.stage_eq_ok h
    obtain ⟨s, rfl, htree⟩ := Run.stage_eq_ok hu
    exact ⟨s, rfl, .inl ⟨h2, u, htree, hcodes⟩⟩
  · subst h
    exact ⟨t, rfl, .inr ⟨not_le.mp h2, rfl⟩⟩

/-- ENCODE_ALL completes without an error only where each of its stages succeeded. -/
theorem encodeAll_ok {s t : State} (h : exec .encodeAll s = .next t) (herr : t.status.err = false) :
    ∃ c d e f, countStage s = .ok c ∧ sortStage c = .ok d ∧
      ((2 ≤ d.slistLen.toNat ∧ ∃ u, buildTreeStage d = .ok u ∧ buildCodesStage u = .ok e) ∨
        (d.slistLen.toNat < 2 ∧ e = d)) ∧
      encodeStage e = .ok f ∧ t = f.succeed := by
  injection h with h
  subst h
  cases hrun : encodeAllRun s with
  | mk f error =>
    rw [hrun] at herr
    cases error with
    | some c => cases herr
    | none =>
      obtain ⟨e, he, hencode⟩ := Run.stage_eq_ok hrun
      obtain ⟨d, hd, htree⟩ := Run.treeStages_eq_ok he
      obtain ⟨c, hc, hsort⟩ := Run.stage_eq_ok hd
      obtain ⟨_, hs, hcount⟩ := Run.stage_eq_ok hc
      cases hs
      exact ⟨c, d, e, f, hcount, hsort, htree, hencode, rfl⟩

/-! ### What the stages have checked -/

/-- The validation pass succeeds on coded bytes only (R123). -/
theorem forall_coded_of_payloadLength_ok {code : Vector CodeEntry 128} {xs : List Byte} {p : Nat}
    (h : payloadLength code xs = .ok p) : ∀ b ∈ xs, ByteCoded code b := by
  induction xs generalizing p with
  | nil => exact List.forall_mem_nil _
  | cons b bs ih =>
    have hb : ByteCoded code b := by
      cases hsym : b.getLsbD 7 with
      | true => rw [payloadLength_cons_invalidSymbol bs hsym] at h; cases h
      | false =>
        refine ⟨hsym, fun hlen => ?_⟩
        rw [payloadLength_cons_noCode bs hsym hlen] at h
        cases h
    rw [payloadLength_cons_coded bs hb] at h
    cases hbs : payloadLength code bs with
    | error c => rw [hbs] at h; cases h
    | ok q => exact List.forall_mem_cons.mpr ⟨hb, ih hbs⟩

/-- ENCODE of a non-empty input succeeds only on coded bytes whose packed codes fit PK, and then commits these. -/
theorem encodeStage_ok_coded {s t : State} (h : encodeStage s = .ok t) (hpos : 0 < s.inLen.toNat) :
    (∀ i, i < s.inLen.toNat → ByteCoded s.code (s.elem .inp i)) ∧
    packedSize (s.inputSyms.flatMap fun x => codeBits (codeOf s.code x)).length ≤ s.params.maxPk.size ∧
    t = s.commitPacked (s.inputSyms.flatMap fun x => codeBits (codeOf s.code x)) := by
  have hlen : s.inLen.toNat ≤ s.params.maxIn.size := by
    by_contra hlong
    rw [encodeStage_badLength (not_le.mp hlong)] at h
    cases h
  have hcodes : s.status.codesValid = true := by
    by_contra hnone
    rw [encodeStage_noTable hlen hpos (Bool.eq_false_iff.mpr hnone)] at h
    cases h
  cases hpay : payloadLength s.code (s.elems .inp s.inLen.toNat) with
  | error c =>
    rw [encodeStage_invalidInput hlen hpos hcodes hpay] at h
    cases h
  | ok p =>
    have hcoded := forall_coded_of_payloadLength_ok hpay
    rw [encodeStage_coded hlen hpos hcodes hcoded] at h
    split_ifs at h with hfit
    injection h with h
    exact ⟨State.forall_mem_elems.mp hcoded, not_lt.mp hfit, h.symm⟩

/-- SORT of a count that is not empty leaves at least two entries (R99). -/
theorem two_le_length_sortedEntries {cnt : Vector Word 128} {x : Sym} (hx : countOf cnt x ≠ 0) (total : Word) :
    2 ≤ (BitVec.ofNat 32 (sortedEntries cnt total).length).toNat := by
  rw [BitVec.toNat_ofNat]
  by_cases hone : (presentSyms cnt).length = 1
  · obtain ⟨y, hy⟩ := List.length_eq_one_iff.mp hone
    rw [sortedEntries, List.length_insertionSort, hy]
    exact le_rfl
  · have hpos := List.length_pos_of_mem (mem_presentSyms.mpr hx)
    have hle := length_presentSyms_le cnt
    rw [length_sortedEntries total hone]
    omega

/-- COUNT of a non-empty input counts its first symbol. -/
theorem countOf_first_ne_zero {s : State} (hpos : 0 < s.inLen.toNat) :
    countOf (countSymbols (s.elems .inp s.inLen.toNat)) (symOf (s.elem .inp 0)) ≠ 0 := by
  intro h0
  have hcount := countOf_countSymbols (xs := s.elems .inp s.inLen.toNat) (by simpa using s.inLen.isLt)
    (symOf (s.elem .inp 0))
  rw [h0] at hcount
  have : 0 < (s.elems .inp s.inLen.toNat).countP fun b => symOf b == symOf (s.elem .inp 0) :=
    List.countP_pos_iff.mpr ⟨_, State.mem_elems.mpr ⟨0, hpos, rfl⟩, by simp⟩
  rw [← hcount] at this
  exact absurd this (Nat.lt_irrefl 0)

/-- A new tree is valid and meets R62(b), whatever the state it was built in. -/
theorem buildTreeStage_treeAgrees {s t : State} (h : buildTreeStage s = .ok t) :
    t.status.treeValid = true ∧ t.treeAgrees := by
  obtain ⟨h2, hl, hd, rfl⟩ := buildTreeStage_ok h
  have htt := (mergeList_inv s.node (one_le_two.trans h2) hl).tt
  refine ⟨rfl, fun _ => ⟨s.sortedList.length, ?_, ?_, mergeList_treeShape s.node h2 hl hd⟩⟩
  · simp only [BitVec.toNat_ofNat]
    omega
  · simp only [BitVec.toNat_ofNat]
    omega

/-! ### The state that ENCODE packs in (R135) -/

/-- What the input of ENCODE is read from. -/
def State.inputOperands (s : State) := (s.params, s.inLen, s.mem, s.epoch)

section
variable {s t : State} (h : t.inputOperands = s.inputOperands)
include h

theorem elem_of_inputOperands (b : Buffer) (i : Nat) : t.elem b i = s.elem b i := by
  simp only [State.inputOperands, Prod.mk.injEq] at h
  obtain ⟨-, -, hmem, hepoch⟩ := h
  exact State.ram_congr hmem hepoch _

theorem params_of_inputOperands : t.params = s.params := congrArg Prod.fst h

theorem inLen_of_inputOperands : t.inLen = s.inLen := congrArg (·.2.1) h

end

theorem countStage_inputOperands {s t : State} (h : countStage s = .ok t) : t.inputOperands = s.inputOperands := by
  rw [countStage_ok h]
  rfl

theorem sortStage_inputOperands {s t : State} (h : sortStage s = .ok t) : t.inputOperands = s.inputOperands := by
  rw [sortStage_ok h]
  rfl

theorem buildTreeStage_inputOperands {s t : State} (h : buildTreeStage s = .ok t) :
    t.inputOperands = s.inputOperands := by
  obtain ⟨-, -, -, e⟩ := buildTreeStage_ok h
  rw [e]
  rfl

/-- SORT after COUNT of a non-empty input leaves a list that a tree can be built from (R99). -/
theorem two_le_slistLen_of_count {s c d : State} (hcount : countStage s = .ok c) (hsort : sortStage c = .ok d)
    (hpos : 0 < s.inLen.toNat) : 2 ≤ d.slistLen.toNat := by
  have htotal : c.total ≠ 0 := by
    rw [countStage_ok hcount]
    exact State.inLen_ne_zero hpos
  have hfirst : countOf c.cnt (symOf (s.elem .inp 0)) ≠ 0 := by
    rw [countStage_ok hcount]
    exact countOf_first_ne_zero hpos
  rw [sortStage_of_ne_zero htotal] at hsort
  injection hsort with hsort
  rw [← hsort]
  exact two_le_length_sortedEntries hfirst c.total

/-- BUILD_CODES after BUILD_TREE leaves a valid tree that meets R62(b) and the table of its leaves' paths. -/
theorem treeStages_ok {d u e : State} (htree : buildTreeStage d = .ok u) (hcodes : buildCodesStage u = .ok e) :
    e.inputOperands = d.inputOperands ∧ e.status.treeValid = true ∧ e.treeAgrees ∧
      e.code = codeTable e.node e.root := by
  obtain ⟨hv, hagrees⟩ := buildTreeStage_treeAgrees htree
  have hu := buildTreeStage_inputOperands htree
  obtain ⟨-, rfl⟩ := buildCodesStage_ok hcodes
  exact ⟨hu, hv, hagrees, rfl⟩

/-- A successful ENCODE_ALL has packed the input with the table of a tree that it has built, if there is any input. -/
theorem encodeAll_packs {s t : State} (h : exec .encodeAll s = .next t) (herr : t.status.err = false) :
    ∃ e f, e.inputOperands = s.inputOperands ∧
      (0 < s.inLen.toNat → e.status.treeValid = true ∧ e.treeAgrees ∧ e.code = codeTable e.node e.root) ∧
      encodeStage e = .ok f ∧ t = f.succeed := by
  obtain ⟨c, d, e, f, hcount, hsort, hstages, hencode, ht⟩ := encodeAll_ok h herr
  have hd := (sortStage_inputOperands hsort).trans (countStage_inputOperands hcount)
  rcases hstages with ⟨-, u, htree, hcodes⟩ | ⟨h2, rfl⟩
  · obtain ⟨he, hvalid⟩ := treeStages_ok htree hcodes
    exact ⟨e, f, he.trans hd, fun _ => hvalid, hencode, ht⟩
  · exact ⟨e, f, hd, fun hpos => absurd (two_le_slistLen_of_count hcount hsort hpos) h2.not_ge, hencode, ht⟩

/-! ### The code words of an input (R132) -/

/-- The code words that an input of coded bytes is packed to, each with its symbol. -/
def codeWords (code : Vector CodeEntry 128) (l : List Sym) : List (List Bool × Sym) :=
  l.map fun x => (codeBits (codeOf code x), x)

theorem flatMap_codeWords (code : Vector CodeEntry 128) (l : List Sym) :
    (codeWords code l).flatMap Prod.fst = l.flatMap fun x => codeBits (codeOf code x) :=
  List.flatMap_map ..

/-- The code of a coded symbol is its root path (R114). -/
theorem TreeShape.leafAtPath_code {node : Vector NodeEntry 255} {len : Nat} (shape : TreeShape node len)
    {root : BitVec 8} (hroot : root.toNat = 2 * len - 2) {x : Sym} (hx : (codeOf (codeTable node root) x).len ≠ 0) :
    leafAtPath node root (codeBits (codeOf (codeTable node root) x)) = some x := by
  obtain ⟨e, he⟩ := (shape.coded_iff hroot).mp hx
  rwa [shape.codeOf_codeTable hroot he, codeBits_pathCode (shape.rootPath_length hroot he).2]

/-- With the table of the valid tree DECODE of the packed code words of coded symbols gives back the symbols. -/
theorem decode_codeWords {t : State} {l : List Sym} (htree : t.treeAgrees) (hv : t.status.treeValid = true)
    (hcode : t.code = codeTable t.node t.root) (hlen : t.pkLen.toNat ≤ t.params.maxPk.size) (hne : l ≠ [])
    (hcoded : ∀ x ∈ l, (codeOf t.code x).len ≠ 0) (hholds : t.Holds (l.flatMap fun x => codeBits (codeOf t.code x)))
    (hfit : l.length ≤ t.params.maxDec.size) :
    ∃ u, exec .decode t = .next u ∧ u.status.err = false ∧ u.status.trailing = false ∧
      u.status.padFallback = false ∧ u.decLen.toNat = l.length ∧
      ∀ i (h : i < l.length), (u.elem .dec i).toNat = l[i].toNat := by
  rw [hcode] at hcoded hholds
  obtain ⟨len, shape, hroot, -⟩ := htree.shape hv
  have hwords : ∀ c ∈ codeWords (codeTable t.node t.root) l, leafAtPath t.node t.root c.1 = some c.2 :=
    List.forall_mem_map.mpr fun x hx => shape.leafAtPath_code hroot (hcoded x hx)
  have hpart : ∀ k, k ≤ ([] : List Bool).length → leafAtPath t.node t.root (([] : List Bool).take k) = none := by
    intro k _
    obtain ⟨hle, hlt⟩ := shape.root_internal hroot
    simp [leafAtPath, (shape.internal _ hle hlt).1]
  have hpos : 0 < (l.flatMap fun x => codeBits (codeOf (codeTable t.node t.root) x)).length := by
    obtain ⟨x, hx⟩ := List.exists_mem_of_ne_nil l hne
    refine List.length_pos_of_ne_nil fun hnil => ?_
    exact (shape.rootPath_length hroot (shape.leafAtPath_code hroot (hcoded x hx))).1
      (List.flatMap_eq_nil_iff.mp hnil x hx)
  have hsize := hholds.payload_size
  obtain ⟨u, hexec, hu, hdecLen, -, hdec, -⟩ := decodeEmitsTheCodeWords t _ _ _ [] htree hv hlen hholds.strips
    (by omega) (by rw [hholds.streamFrom_eq, List.append_nil, flatMap_codeWords]) hwords hpart
    (by rwa [codeWords, List.length_map])
  rw [codeWords, List.length_map] at hdecLen
  refine ⟨u, hexec, by rw [hu], by rw [hu]; rfl, by rw [hu], hdecLen, fun i hi => ?_⟩
  rw [hdec i (by rwa [codeWords, List.length_map])]
  simp [codeWords]

/-! ### DECODE after ENCODE (R132) -/

/-- DECODE has given back the input of a state. -/
def State.GivesBack (s u : State) : Prop :=
  u.status.err = false ∧ u.status.trailing = false ∧ u.status.padFallback = false ∧ u.decLen = s.inLen ∧
    ∀ i, i < s.inLen.toNat → u.elem .dec i = s.elem .inp i

/-- An empty input is packed to the header byte alone, and DECODE needs no tree for it. -/
theorem decode_encode_empty {s t : State} (h : encodeStage s = .ok t) (hlen : s.inLen = 0) :
    ∃ u, exec .decode t.succeed = .next u ∧ s.GivesBack u := by
  rw [encodeStage_empty hlen] at h
  injection h with h
  subst h
  have hpk : (s.commitPacked []).succeed.elem .pk 0 = 0x01 :=
    s.elem_setElems_same .pk (packBits []) Nat.one_pos
  refine ⟨_, decodeOfNothing _ (.inr ⟨rfl, .inl hpk⟩), rfl, rfl, ?_, hlen.symm, fun i hi => ?_⟩
  · rw [hpk]
    rfl
  · rw [hlen] at hi
    cases hi

/-- With the table of the valid tree DECODE gives back what ENCODE has packed. -/
theorem decode_encode_nonempty {s t : State} (h : encodeStage s = .ok t) (hpos : 0 < s.inLen.toNat)
    (hv : s.status.treeValid = true) (htree : s.treeAgrees) (hcode : s.code = codeTable s.node s.root)
    (hfit : s.inLen.toNat ≤ s.params.maxDec.size) : ∃ u, exec .decode t.succeed = .next u ∧ s.GivesBack u := by
  obtain ⟨hcoded, hsize, rfl⟩ := encodeStage_ok_coded h hpos
  have hcount : s.inputSyms.length = s.inLen.toNat := by rw [State.inputSyms, List.length_map, State.elems_length]
  have hsyms : ∀ x ∈ s.inputSyms, (codeOf s.code x).len ≠ 0 :=
    List.forall_mem_map.mpr (State.forall_mem_elems.mpr fun i hi => (hcoded i hi).2)
  have hholds := holds_commitPacked hsize
  have ht := commitPacked_succeed_eq (s := s) (b := s.inputSyms.flatMap fun x => codeBits (codeOf s.code x))
  generalize (s.commitPacked _).succeed = t at hholds ht ⊢
  have hparams : t.params = s.params := by rw [ht]
  have hcodes : t.code = s.code := by rw [ht]
  have hpkLen : t.pkLen.toNat ≤ t.params.maxPk.size := hparams ▸ hholds.pkLen.trans_le hsize
  rw [← hcodes] at hsyms hholds
  obtain ⟨u, hexec, herr, htrailing, hfallback, hdecLen, hdec⟩ := decode_codeWords (by rw [ht]; exact htree)
    (by rw [ht]; exact hv) (by rw [ht]; exact hcode) hpkLen (List.ne_nil_of_length_pos (by rwa [hcount])) hsyms hholds
    (by rwa [hcount, hparams])
  refine ⟨u, hexec, herr, htrailing, hfallback, BitVec.eq_of_toNat_eq (hdecLen.trans hcount), fun i hi => ?_⟩
  refine BitVec.eq_of_toNat_eq ((hdec i (by rwa [hcount])).trans ?_)
  rw [← symOf_toNat_of_legal (hcoded i hi).1]
  simp [State.inputSyms]

end Sys2Proof.Machine

open Sys2Proof Sys2Proof.Machine

/-- Settles O53: the codes that ENCODE_ALL packed are the root paths of the input's symbols in the tree it leaves, and
DECODE follows them one by one. -/
theorem decodeInvertsEncodeAll : Obligations.DecodeInvertsEncodeAll := by
  intro s t h herr hfit
  obtain ⟨e, f, hinput, hvalid, hencode, rfl⟩ := encodeAll_packs h herr
  have hinLen := inLen_of_inputOperands hinput
  have hback : ∃ u, exec .decode f.succeed = .next u ∧ e.GivesBack u := by
    rcases Nat.eq_zero_or_pos s.inLen.toNat with h0 | hpos
    · exact decode_encode_empty hencode (hinLen.trans (BitVec.eq_of_toNat_eq h0))
    · obtain ⟨hv, htree, hcode⟩ := hvalid hpos
      exact decode_encode_nonempty hencode (by rwa [hinLen]) hv htree hcode
        (by rwa [hinLen, params_of_inputOperands hinput])
  obtain ⟨u, hexec, hgives⟩ := hback
  simp only [State.GivesBack, hinLen, elem_of_inputOperands hinput] at hgives
  exact ⟨u, hexec, hgives⟩
end

section
/-! PROOFS. The shell and composite commands (45_control.md): a composite command as its stages one by one, and what
the stages of ENCODE_ALL leave of a non-empty legal input for ENCODE. -/

namespace Sys2Proof.Machine

/-! ### Stages after a completion (R141) -/

/-- A stage neither depends on nor changes what a successful completion writes. -/
def IgnoresCompletion (f : Stage) : Prop := ∀ s : State, f s.succeed = State.succeed <$> f s

/-- A completion between two commands makes no difference to the second where its stage ignores it. -/
theorem primitive_succeed {f : Stage} (hf : IgnoresCompletion f) (s : State) :
    primitive f s.succeed = primitive f s := by
  have hs := hf s
  cases h : f s with
  | ok t =>
    rw [h] at hs
    exact (primitive_ok hs).trans (primitive_ok h).symm
  | error c =>
    rw [h] at hs
    exact (primitive_fail hs).trans (primitive_fail h).symm

theorem sortStage_ignoresCompletion : IgnoresCompletion sortStage := fun s => by
  by_cases h : s.total = 0
  · rw [sortStage_of_zero h, sortStage_of_zero (s := s.succeed) h]
    rfl
  · rw [sortStage_of_ne_zero h, sortStage_of_ne_zero (s := s.succeed) h]
    rfl

theorem buildTreeStage_ignoresCompletion : IgnoresCompletion buildTreeStage := fun s => by
  have hlist : s.succeed.sortedList = s.sortedList := rfl
  simp only [buildTreeStage, State.succeed_slistLen, hlist]
  split_ifs <;> rfl

theorem buildCodesStage_ignoresCompletion : IgnoresCompletion buildCodesStage := fun s => by
  cases h : s.status.treeValid with
  | true =>
    rw [buildCodesStage_valid h, buildCodesStage_valid (s := s.succeed) h]
    rfl
  | false =>
    rw [buildCodesStage_noTree h, buildCodesStage_noTree (s := s.succeed) h]
    rfl

theorem encodeStage_ignoresCompletion : IgnoresCompletion encodeStage := fun s => by
  have helems : s.succeed.elems = s.elems := rfl
  have hcodes : s.succeed.status.codesValid = s.status.codesValid := rfl
  simp only [encodeStage, State.succeed_params, State.succeed_inLen, State.succeed_code, helems, hcodes]
  split_ifs
  · rfl
  · rfl
  · cases payloadLength s.code (s.elems .inp s.inLen.toNat) with
    | error c => rfl
    | ok p => dsimp only; split_ifs <;> rfl
  · rfl

theorem exec_sort_succeed (s : State) : exec .sort s.succeed = exec .sort s :=
  primitive_succeed sortStage_ignoresCompletion s

theorem exec_buildTree_succeed (s : State) : exec .buildTree s.succeed = exec .buildTree s :=
  primitive_succeed buildTreeStage_ignoresCompletion s

theorem exec_buildCodes_succeed (s : State) : exec .buildCodes s.succeed = exec .buildCodes s :=
  primitive_succeed buildCodesStage_ignoresCompletion s

theorem exec_encode_succeed (s : State) : exec .encode s.succeed = exec .encode s :=
  primitive_succeed encodeStage_ignoresCompletion s

/-- SORT never fails (R102). -/
theorem exists_sortStage_ok (s : State) : ∃ t, sortStage s = .ok t := by
  by_cases h : s.total = 0
  · exact ⟨_, sortStage_of_zero h⟩
  · exact ⟨_, sortStage_of_ne_zero h⟩

/-! ### BUILD and ENCODE_ALL by their stages (R135, R136, R143) -/

theorem Run.begin_stage_ok {f : Stage} {s t : State} (h : f s = .ok t) : (Run.begin s).stage f = Run.begin t :=
  Run.stage_ok h

theorem Run.begin_stage_fail {f : Stage} {s : State} {c : ErrCode} (h : f s = .error c) :
    (Run.begin s).stage f = ⟨s, some c⟩ :=
  Run.stage_fail h

theorem Run.treeStages_error (s : State) (c : ErrCode) : (Run.mk s (some c)).treeStages = ⟨s, some c⟩ := by
  rw [Run.treeStages, Run.stage_error, Run.stage_error, ite_self]

theorem exec_build (s : State) : exec .build s = .next (buildRun s).complete := rfl

theorem exec_encodeAll (s : State) : exec .encodeAll s = .next (encodeAllRun s).complete := rfl

/-- A failing BUILD_TREE is BUILD's outcome. -/
theorem exec_build_fail {s : State} {c : ErrCode} (h : buildTreeStage s = .error c) :
    exec .build s = exec .buildTree s := by
  rw [exec_build, buildRun, Run.begin_stage_fail h, Run.stage_error]
  exact (primitive_fail h).symm

theorem exec_build_ok {s t : State} (h : buildTreeStage s = .ok t) : exec .build s = exec .buildCodes t := by
  rw [exec_build, buildRun, Run.begin_stage_ok h]
  rfl

/-- A failing COUNT is ENCODE_ALL's outcome. -/
theorem exec_encodeAll_fail {s : State} {c : ErrCode} (h : countStage s = .error c) :
    exec .encodeAll s = exec .count s := by
  rw [exec_encodeAll, encodeAllRun, Run.begin_stage_fail h, Run.stage_error, Run.treeStages_error, Run.stage_error]
  exact (primitive_fail h).symm

section
variable {s c d : State} (hcount : countStage s = .ok c) (hsort : sortStage c = .ok d)
include hcount hsort

theorem encodeAllRun_of_sorted : encodeAllRun s = (Run.begin d).treeStages.stage encodeStage := by
  rw [encodeAllRun, Run.begin_stage_ok hcount, Run.begin_stage_ok hsort]

theorem exec_encodeAll_short (h : d.slistLen.toNat < 2) : exec .encodeAll s = exec .encode d := by
  have hskip : (Run.begin d).treeStages = Run.begin d := if_neg h.not_ge
  rw [exec_encodeAll, encodeAllRun_of_sorted hcount hsort, hskip]
  rfl

theorem exec_encodeAll_ok {u e : State} (h : 2 ≤ d.slistLen.toNat) (htree : buildTreeStage d = .ok u)
    (hcodes : buildCodesStage u = .ok e) : exec .encodeAll s = exec .encode e := by
  have hstages : (Run.begin d).treeStages = Run.begin e := by
    rw [← Run.begin_stage_ok hcodes, ← Run.begin_stage_ok htree]
    exact if_pos h
  rw [exec_encodeAll, encodeAllRun_of_sorted hcount hsort, hstages]
  rfl

end

/-! ### The list that SORT leaves (R99, R102, R104) -/

theorem probAccepted_probZero : probAccepted probZero = true := by decide

section
variable {l : List FreqEntry}

/-- The synthetic entry of a single symbol is for another symbol (R99). -/
theorem withSynthetic_nodup_syms (h : (l.map FreqEntry.sym).Nodup) :
    ((withSynthetic l).map FreqEntry.sym).Nodup := by
  unfold withSynthetic
  split
  · next e => simp
  · exact h

theorem mem_withSynthetic_of_mem {e : FreqEntry} (h : e ∈ l) : e ∈ withSynthetic l := by
  unfold withSynthetic
  split
  · exact List.mem_cons.mpr (.inl (List.mem_singleton.mp h))
  · exact h

theorem probAccepted_withSynthetic (h : ∀ e ∈ l, probAccepted e.prob = true) :
    ∀ e ∈ withSynthetic l, probAccepted e.prob = true := by
  unfold withSynthetic
  split
  · exact List.forall_mem_cons.mpr
      ⟨h _ (List.mem_singleton_self _), List.forall_mem_singleton.mpr probAccepted_probZero⟩
  · exact h

theorem length_withSynthetic_le : (withSynthetic l).length ≤ max 2 l.length := by
  unfold withSynthetic
  split
  · exact le_rfl
  · exact le_max_right _ _

end

/-- The quotient of a count by a total is finite (R98). -/
theorem probAccepted_freqEntry (cnt : Vector Word 128) {total : Word} (h : total ≠ 0) (x : Sym) :
    probAccepted (freqEntry cnt total x).prob = true := by
  have hpos : 0 < total.toNat := Nat.pos_of_ne_zero fun h0 => h (BitVec.eq_of_toNat_eq h0)
  obtain ⟨hsign, hexp⟩ := finite_of_toNat_lt
    (f64Div_count (c := (countOf cnt x).toNat) hpos (by omega) (by omega)).1
  exact (probAccepted_iff _).mpr ⟨hsign, f64IsNaN_of_finite hexp⟩

section
variable (cnt : Vector Word 128) (total : Word)

theorem sortedEntries_perm_withSynthetic :
    (sortedEntries cnt total).Perm (withSynthetic ((presentSyms cnt).map (freqEntry cnt total))) :=
  List.perm_insertionSort _ _

theorem sortedEntries_distinct : ((sortedEntries cnt total).map FreqEntry.sym).Nodup := by
  refine ((sortedEntries_perm_withSynthetic cnt total).map _).nodup_iff.mpr (withSynthetic_nodup_syms ?_)
  rw [List.map_map]
  exact (List.map_id _).symm ▸ nodup_presentSyms cnt

theorem length_sortedEntries_le : (sortedEntries cnt total).length ≤ 128 := by
  have h := length_withSynthetic_le (l := (presentSyms cnt).map (freqEntry cnt total))
  have hle := length_presentSyms_le cnt
  rw [List.length_map] at h
  rw [(sortedEntries_perm_withSynthetic cnt total).length_eq]
  omega

/-- Every counted symbol has an entry. -/
theorem mem_syms_sortedEntries {x : Sym} (h : countOf cnt x ≠ 0) :
    x ∈ (sortedEntries cnt total).map FreqEntry.sym :=
  List.mem_map.mpr ⟨freqEntry cnt total x, (sortedEntries_perm_withSynthetic cnt total).mem_iff.mpr
    (mem_withSynthetic_of_mem (List.mem_map_of_mem (mem_presentSyms.mpr h))), rfl⟩

end

theorem take_toList_overlay {α : Type} {n : Nat} (v : Vector α n) {l : List α} (h : l.length ≤ n) :
    (overlay v l).toList.take l.length = l := by
  refine List.ext_getElem (by simpa using h) fun i _ hi => ?_
  rw [List.getElem_take, Vector.getElem_toList, getElem_overlay_lt v l (hi.trans_le h) hi]

/-- SORT of a count that is not empty leaves its entries as a list that BUILD_TREE accepts. -/
theorem sortStage_accepted {s : State} {x : Sym} (htotal : s.total ≠ 0) (hx : countOf s.cnt x ≠ 0) :
    ∃ t, sortStage s = .ok t ∧ t.ListAccepted ∧ t.sortedList = sortedEntries s.cnt s.total ∧
      t = { s with
        slist := t.slist
        slistLen := t.slistLen
        status := { s.status with empty := false, degenerate := t.status.degenerate } } := by
  have hle := length_sortedEntries_le s.cnt s.total
  have htwo := two_le_length_sortedEntries hx s.total
  have hlen : (BitVec.ofNat 32 (sortedEntries s.cnt s.total).length).toNat =
      (sortedEntries s.cnt s.total).length := by
    rw [BitVec.toNat_ofNat]
    omega
  have hlist : (overlay s.slist (sortedEntries s.cnt s.total)).toList.take
      (BitVec.ofNat 32 (sortedEntries s.cnt s.total).length).toNat = sortedEntries s.cnt s.total := by
    rw [hlen, take_toList_overlay _ hle]
  refine ⟨_, sortStage_of_ne_zero htotal, (listAccepted_iff _).mpr ⟨htwo, hlen.trans_le hle, ?_, ?_⟩, hlist, rfl⟩
  · simp only [State.sortedList, hlist, List.any_eq_false, Bool.not_eq_true', Bool.not_eq_false]
    intro e he
    refine probAccepted_withSynthetic ?_ e ((sortedEntries_perm_withSynthetic _ _).mem_iff.mp he)
    exact List.forall_mem_map.mpr fun y _ => probAccepted_freqEntry _ htotal y
  · simp only [State.sortedList, hlist]
    exact sortedEntries_distinct _ _

/-! ### The codes of the new tree (R114) -/

/-- The table of a new tree codes the symbols of the list that it is built from, and no others. -/
theorem buildTreeStage_coded_iff {s t : State} (h : buildTreeStage s = .ok t) {x : Sym} :
    (codeOf (codeTable t.node t.root) x).len ≠ 0 ↔ x ∈ s.sortedList.map FreqEntry.sym := by
  obtain ⟨h2, hl, hd, rfl⟩ := buildTreeStage_ok h
  have hinv := mergeList_inv s.node (one_le_two.trans h2) hl
  have htt := hinv.tt
  have shape := mergeList_treeShape s.node h2 hl hd
  have hroot : (BitVec.ofNat 8 ((mergeList s.node s.sortedList).tt - 1)).toNat = 2 * s.sortedList.length - 2 := by
    rw [BitVec.toNat_ofNat]
    omega
  have hleaves : (List.range s.sortedList.length).map (fun i => (nodeAt (mergeList s.node s.sortedList).node i).sym) =
      s.sortedList.map FreqEntry.sym := by
    refine List.ext_getElem (by simp) fun i _ hi => ?_
    rw [List.getElem_map, List.getElem_range, List.getElem_map, hinv.leaves i (by simpa using hi)]
    rfl
  rw [shape.coded_iff hroot, shape.exists_rootPath_iff hroot, hleaves]

/-- No code is longer than 127 bits (R109, R117). -/
theorem TreeShape.len_code_le {node : Vector NodeEntry 255} {len : Nat} (shape : TreeShape node len)
    {root : BitVec 8} (hroot : root.toNat = 2 * len - 2) (x : Sym) :
    (codeOf (codeTable node root) x).len.toNat ≤ 127 := by
  by_cases hx : (codeOf (codeTable node root) x).len = 0
  · rw [hx]
    exact Nat.zero_le _
  · obtain ⟨e, he⟩ := (shape.coded_iff hroot).mp hx
    have hlen := (shape.rootPath_length hroot he).2
    rwa [shape.codeOf_codeTable hroot he, pathCode_len hlen]

/-! ### The state that ENCODE_ALL encodes in (R135) -/

/-- COUNT counts every symbol of the input. -/
theorem countOf_ne_zero_of_mem_inputSyms {s : State} {x : Sym} (h : x ∈ s.inputSyms) :
    countOf (countSymbols (s.elems .inp s.inLen.toNat)) x ≠ 0 := by
  obtain ⟨b, hb, rfl⟩ := List.mem_map.mp h
  intro h0
  have hcount := countOf_countSymbols (xs := s.elems .inp s.inLen.toNat) (by simpa using s.inLen.isLt) (symOf b)
  rw [h0] at hcount
  exact (List.countP_pos_iff.mpr ⟨b, hb, beq_self_eq_true (symOf b)⟩).ne hcount

/-- What COUNT, SORT, BUILD_TREE and BUILD_CODES leave of a non-empty legal input for ENCODE. -/
structure State.Prepared (s e : State) : Prop where
  r62   : e.R62Holds
  coded : ∀ x ∈ s.inputSyms, (codeOf e.code x).len ≠ 0
  frame : e = { s with
    cnt := e.cnt, total := s.inLen, slist := e.slist, slistLen := e.slistLen, node := e.node
    nodeCnt := e.nodeCnt, root := e.root, code := e.code
    status := { s.status with
      empty := false, degenerate := e.status.degenerate, treeValid := true, codesValid := true } }

theorem exec_encodeAll_prepared {s : State} (hpos : 0 < s.inLen.toNat) (hlen : s.inLen.toNat ≤ s.params.maxIn.size)
    (hlegal : s.InputLegal) : ∃ e, s.Prepared e ∧ exec .encodeAll s = exec .encode e := by
  obtain ⟨c, hcount⟩ : ∃ c, countStage s = .ok c := ⟨_, countStage_legal hlen hlegal⟩
  have hc := countStage_ok hcount
  have htotal : c.total ≠ 0 := by
    rw [hc]
    exact State.inLen_ne_zero hpos
  have hcnt : c.cnt = countSymbols (s.elems .inp s.inLen.toNat) := by rw [hc]
  obtain ⟨d, hsort, haccepted, hlist, hd⟩ := sortStage_accepted htotal (hcnt ▸ countOf_first_ne_zero hpos)
  obtain ⟨u, htree⟩ : ∃ u, buildTreeStage d = .ok u := ⟨_, buildTreeStage_accepted haccepted⟩
  obtain ⟨-, -, -, hu⟩ := buildTreeStage_ok htree
  obtain ⟨hvalid, hagrees⟩ := buildTreeStage_treeAgrees htree
  have hcodes := buildCodesStage_valid hvalid
  refine ⟨{ u with code := codeTable u.node u.root, status := u.status.withNewCodes },
    ⟨⟨?counts, hagrees, fun _ => ⟨hvalid, rfl⟩⟩, fun x hx => ?coded, ?frame⟩,
    exec_encodeAll_ok hcount hsort haccepted.two_le htree hcodes⟩
  case counts =>
    have hsum : s.inLen.toNat = countSum (countSymbols (s.elems .inp s.inLen.toNat)) := by
      rw [countSum_countSymbols (by simpa using s.inLen.isLt), State.elems_length]
    rw [State.countsAgree_iff, hu, hd, hc]
    exact hsum
  case coded =>
    refine (buildTreeStage_coded_iff htree).mpr ?_
    rw [hlist, hcnt]
    exact mem_syms_sortedEntries _ _ (countOf_ne_zero_of_mem_inputSyms hx)
  case frame =>
    rw [hu, hd, hc]
    rfl

section
variable {s e : State} (h : s.Prepared e)
include h

theorem State.Prepared.inputOperands : e.inputOperands = s.inputOperands := by
  rw [h.frame]
  rfl

theorem State.Prepared.inLen_eq : e.inLen = s.inLen := inLen_of_inputOperands h.inputOperands

theorem State.Prepared.params_eq : e.params = s.params := params_of_inputOperands h.inputOperands

theorem State.Prepared.inputSyms_eq : e.inputSyms = s.inputSyms := by
  have hbytes : e.elem .inp = s.elem .inp := funext (elem_of_inputOperands h.inputOperands .inp)
  rw [State.inputSyms, State.inputSyms, State.elems, State.elems, h.inLen_eq, hbytes]

theorem State.Prepared.ram_eq (a : Nat) : e.ram a = s.ram a :=
  State.ram_congr (by rw [h.frame]) (by rw [h.frame]) a

theorem State.Prepared.inputLegal (hlegal : s.InputLegal) : e.InputLegal := fun i hi => by
  rw [elem_of_inputOperands h.inputOperands]
  exact hlegal i (h.inLen_eq ▸ hi)

theorem State.Prepared.valid : e.status.treeValid = true ∧ e.status.codesValid = true := by
  rw [h.frame]
  exact ⟨rfl, rfl⟩

/-- The codes of the input take at most 127 bits for each symbol. -/
theorem State.Prepared.length_codes_le :
    (s.inputSyms.flatMap fun x => codeBits (codeOf e.code x)).length ≤ 127 * s.inLen.toNat := by
  obtain ⟨htree, hcodes⟩ := h.valid
  obtain ⟨len, shape, hroot, -⟩ := h.r62.tree.shape htree
  have hmax : ∀ x : Sym, (codeOf e.code x).len.toNat ≤ 127 := by
    rw [(h.r62.codes hcodes).2]
    exact shape.len_code_le hroot
  have hsum := List.sum_le_card_nsmul (s.inputSyms.map fun x => (codeOf e.code x).len.toNat) 127
    (List.forall_mem_map.mpr fun x _ => hmax x)
  rw [length_codes]
  rwa [List.length_map, State.inputSyms, List.length_map, State.elems_length, smul_eq_mul, mul_comm] at hsum

end

end Sys2Proof.Machine

open Sys2Proof Sys2Proof.Machine

/-- Settles O54: the stages before ENCODE leave a code for every symbol of the input, none longer than 127 bits, so
ENCODE succeeds; it keeps what R62 speaks of. -/
theorem encodeAllEncodesTheInput : Obligations.EncodeAllEncodesTheInput := by
  intro s hpos hlen hlegal hfit
  obtain ⟨e, he, hexec⟩ := exec_encodeAll_prepared hpos hlen hlegal
  have hbits := he.length_codes_le
  rw [← he.inLen_eq] at hpos hlen
  rw [← he.params_eq] at hlen hfit
  obtain ⟨t, ht, hframe, hholds, hram⟩ := encodePacksTheCodes e hpos hlen he.valid.2 (he.inputLegal hlegal)
    (he.inputSyms_eq ▸ he.coded) (by rw [he.inputSyms_eq]; omega)
  have hcode : t.code = e.code := by rw [hframe]
  have hr62 : t.R62Holds := he.r62.congr (by rw [hframe]; rfl)
  have hcoded := he.coded
  rw [← hcode] at hcoded
  rw [he.inputSyms_eq, ← hcode] at hholds hram
  rw [← hholds.pkLen] at hram
  rw [he.frame] at hframe
  refine ⟨t, hexec.trans ht, ?_, ?_, ?_, ?_, ?_, ?_, ?_, ?_, hr62, hcoded, hholds,
    fun a ha => (hram a ha).trans (he.ram_eq a), ?_⟩
  all_goals rw [hframe]

/-- Settles O55: each stage sees of the stages before it only what they have committed, so their completions in between
make no difference. -/
theorem encodeAllIsItsStages : Obligations.EncodeAllIsItsStages := by
  intro s a b ha
  rcases primitive_cases ha with ⟨c, hcount, rfl⟩ | ⟨code, hcount, rfl⟩
  · obtain ⟨d, hsort⟩ := exists_sortStage_ok c
    refine ⟨fun herr => by simp at herr, fun _ hb => ?_⟩
    rw [exec_sort_succeed, exec_sort, primitive_ok hsort] at hb
    injection hb with hb
    subst hb
    rw [exec_encode_succeed, exec_buildTree_succeed]
    refine ⟨exec_encodeAll_short hcount hsort, fun hlong v w hv herr hw => ?_⟩
    rcases primitive_cases hv with ⟨u, htree, rfl⟩ | ⟨code, -, rfl⟩
    · have hcodes := buildCodesStage_valid (buildTreeStage_treeAgrees htree).1
      rw [exec_buildCodes_succeed] at hw
      rw [exec_encodeAll_ok hcount hsort hlong htree hcodes, ← exec_encode_succeed]
      exact congrArg (exec .encode) (Host.Outcome.next.inj ((primitive_ok hcodes).symm.trans hw))
    · simp at herr
  · exact ⟨fun _ => (exec_encodeAll_fail hcount).trans ha, fun herr => by simp at herr⟩

/-- Settles O56: a failing first stage is all that BUILD runs; an accepted list gets a valid tree, of which BUILD_CODES
makes the table. -/
theorem buildRebuildsTreeAndCodes : Obligations.BuildRebuildsTreeAndCodes := by
  intro s
  refine ⟨fun h => ?_, fun h => ?_⟩
  · rcases lt_or_ge s.slistLen.toNat 2 with h2 | h2
    · exact exec_build_fail (buildTreeStage_listTooSmall h2)
    · exact exec_build_fail (buildTreeStage_badList h2 h)
  · have htree := buildTreeStage_accepted h
    have hcodes := primitive_ok (buildCodesStage_valid (buildTreeStage_treeAgrees htree).1)
    exact ⟨_, _, primitive_ok htree, (exec_buildCodes_succeed _).trans hcodes, (exec_build_ok htree).trans hcodes, rfl⟩

/-- Settles O22: the stage of NOP commits nothing. -/
theorem nopOnlyCompletes : Obligations.NopOnlyCompletes := fun s => primitive_ok (s := s) (f := nopStage) rfl
end

section
/-! PROOFS. Exceptions and the interrupt (60_exceptions.md): the next state that every step answers to a safe host, the
start of a command by a CMD write, and the interrupt line by the words a host reads (R140, R146, R151, R169). -/

namespace Sys2Proof.Machine

/-! ### No step stops the machine (R151, R169) -/

/-- A turn of a host that makes a safe operation, or none, answers a next state. -/
theorem exists_hostTurn_next {s : State} (hsafe : ∀ op rest, s.host = op :: rest → op.safe = true) :
    ∃ t, hostTurn s = .next t := by
  cases hh : s.host with
  | nil => exact ⟨_, hostTurn_nil hh⟩
  | cons op rest =>
    have hop := hsafe op rest hh
    cases op with
    | pass => exact ⟨_, hostTurn_pass hh⟩
    | wait =>
      cases hb : s.busy with
      | false => exact ⟨_, hostTurn_wait_done hh hb⟩
      | true => exact ⟨_, hostTurn_wait_busy hh hb⟩
    | waitIrq => cases hop
    | read addr size =>
      obtain rfl : size = 4 := eq_of_beq hop
      exact ⟨_, hostTurn_read hh⟩
    | write addr size v =>
      obtain rfl : size = 4 := eq_of_beq hop
      exact ⟨_, hostTurn_write hh⟩

/-- The completion of a word answers a next state, whether the word is legal or not (R89, R141). -/
theorem exists_completeWord_next (w : Word) (s : State) : ∃ t, completeWord w s = .next t := by
  cases hd : decode w with
  | ok i =>
    obtain ⟨t, ht, -, -⟩ := exec_next i s
    exact ⟨t, (completeWord_ok hd s).trans ht⟩
  | error e => exact ⟨_, completeWord_error hd s⟩

theorem exists_stepNoReset_next {s : State} (hsafe : ∀ op rest, s.host = op :: rest → op.safe = true) :
    ∃ t, stepNoReset s = .next t := by
  unfold stepNoReset
  split
  · exact exists_hostTurn_next hsafe
  · exact exists_completeWord_next _ s
  · exact exists_hostTurn_next hsafe

/-! ### The start of a command (R140, R89) -/

theorem acceptCommand_ok {w : Word} {i : Instr} (h : decode w = .ok i) (s : State) :
    s.acceptCommand w = { s.start w s.nextLatency with latencies := s.latencies.tail } := by
  rw [State.acceptCommand, State.latencyOf_ok h, State.latenciesAfter_ok h]

theorem acceptCommand_error {w : Word} {e : Illegal} (h : decode w = .error e) (s : State) :
    s.acceptCommand w = s.start w 0 := by
  rw [State.acceptCommand, State.latencyOf_error h, State.latenciesAfter_error h]
  rfl

theorem hostWrite_cmd {s : State} (hp : s.phase = .idle) (w : Word) :
    s.hostWrite (busBase s.params + 0x00C) w = s.acceptCommand w :=
  hostWrite_reg_idle hp .cmd w

theorem hostTurn_cmdWrite {s : State} {w : Word} {rest : List HostOp} (hp : s.phase = .idle)
    (hh : s.host = .write (busBase s.params + 0x00C) 4 w :: rest) :
    hostTurn s = .next ((s.acceptCommand w).hostDone rest) := by
  rw [hostTurn_write hh, hostWrite_cmd hp]

/-- A step in which the host writes to CMD of an idle core is the acceptance of the word. -/
theorem step_cmdWrite {s : State} {w : Word} {rest : List HostOp} {later : List Nat} (hp : s.phase = .idle)
    (hr : s.NoResetNow later) (hh : s.host = .write (busBase s.params + 0x00C) 4 w :: rest) :
    step s = .next ((({ s with resets := later } : State).acceptCommand w).hostDone rest) := by
  have turn := hostTurn_cmdWrite (s := { s with resets := later }) hp hh
  rw [(step_eq_hostTurn hr (.inl ⟨hp, rfl⟩)).1, turn]

/-! ### The interrupt line (R29, R31, R146) -/

/-- Bits 0 and 1 of the CTRL word are its two enables (R29). -/
theorem ctrlWord_bits (c : Ctrl) : c.word.getLsbD 0 = c.ieDone ∧ c.word.getLsbD 1 = c.ieErr := by
  obtain ⟨ieDone, ieErr⟩ := c
  revert ieDone ieErr
  decide

theorem irq_eq_words (s : State) :
    s.irq = ((s.statusWord.getLsbD 1 && (s.readReg .ctrl).getLsbD 0) ||
      ((s.statusWord.getLsbD 2 || s.statusWord.getLsbD 3) && (s.readReg .ctrl).getLsbD 1)) := by
  obtain ⟨hdone, herr⟩ := ctrlWord_bits s.ctrl
  rw [State.readReg, hdone, herr, statusWord_getLsbD, statusWord_getLsbD, statusWord_getLsbD]
  rfl

/-- No event, no interrupt. -/
theorem irq_low_of_flags {s : State} (hdone : s.status.done = false) (herr : s.status.err = false)
    (haccess : s.status.accessErr = false) : s.irq = false := by
  simp [State.irq, hdone, herr, haccess]

/-- No enable, no interrupt. -/
theorem irq_low_of_enables {s : State} (hdone : s.ctrl.ieDone = false) (herr : s.ctrl.ieErr = false) :
    s.irq = false := by
  simp [State.irq, hdone, herr]

end Sys2Proof.Machine

open Sys2Proof Sys2Proof.Machine

/-- Settles O8: a reset that is due answers a next state, and so do the completion of any word and the turn of a safe
host. -/
theorem everyStepGoesOn : Obligations.EveryStepGoesOn := by
  intro s hsafe
  unfold step
  split
  · exact exists_stepNoReset_next hsafe
  · exact ⟨_, rfl⟩
  · exact exists_stepNoReset_next hsafe

/-- Settles O12: the words show the flags and the enables, of which each of the writes and a reset clear enough. -/
theorem interruptLine : Obligations.InterruptLine := by
  refine ⟨fun s => ⟨irq_eq_words s, fun v hdone herr haccess => ?_, fun hp => ?_, fun hp haccess w => ?_⟩,
    fun p e => irq_low_of_enables rfl rfl⟩
  · have write : s.hostWrite (busBase s.params + 0x010) v = s.acknowledge v := hostWrite_status s v
    rw [write]
    exact irq_low_of_flags (by simp [hdone]) (by simp [herr]) (by simp [haccess])
  · have write : s.hostWrite (busBase s.params + 0x008) 0 = { s with ctrl := Ctrl.ofWord 0 } :=
      hostWrite_reg_idle hp .ctrl 0
    rw [write]
    exact irq_low_of_enables rfl rfl
  · rw [hostWrite_cmd hp]
    exact irq_low_of_flags rfl rfl haccess

/-- Settles O5: the write is the host's turn, and an idle core accepts its word with the latency of the word's kind. -/
theorem cmdWriteStartsTheCommand : Obligations.CmdWriteStartsTheCommand := by
  intro s w rest later hp hr hh
  rw [step_cmdWrite hp hr hh]
  refine ⟨fun i hd => ⟨s.nextLatency, ?_⟩, fun e hd => ?_⟩
  · rw [acceptCommand_ok hd]
    rfl
  · rw [acceptCommand_error hd]
    rfl
end

section
/-! PROOFS. Reset and hazards (70_reset_and_hazards.md): the values after a reset and its precedence, the writes that a
running command drops, the completion of every started command, and CLEAR (R157, R158, R160, R161, R163, R169). -/

namespace Sys2Proof.Machine

/-! ### The state after a reset, and a reset that is due (R157, R158, R160) -/

theorem statusWord_resetWith (p : Params) (e : Nat) : (State.resetWith p e).statusWord = 0 := by
  have word : State.reset.status.word false = 0 := by decide
  exact word

theorem ctrlWord_resetWith (p : Params) (e : Nat) : (State.resetWith p e).ctrl.word = 0 :=
  Ctrl.word_eq_ofNat _

theorem step_reset {s : State} {rest : List Nat} (hr : s.resets = 0 :: rest) :
    step s = .next ({ s with resets := rest } : State).resetEvent := by
  rw [step, hr]

/-! ### Writes during BUSY (R163) -/

theorem hostWrite_dropped {s : State} {addr : Word} (hb : s.busy = true)
    (haddr : addr ≠ (Loc.reg .status).addr s.params) (v : Word) : s.hostWrite addr v = s.reject := by
  cases hl : locAt s.params addr with
  | none => exact hostWrite_unmapped hl v
  | some l =>
    have hne : l ≠ .reg .status := fun e => haddr (e ▸ (addr_of_locAt hl).1)
    rw [State.hostWrite, hl]
    simp [hb, hne]

/-! ### The progress of a running command (R169) -/

/-- During BUSY the host's turn goes on whatever it does with the right width, the wait for the interrupt included:
the completion to come can still raise the line. -/
theorem exists_hostTurn_busy {s : State} (hb : s.busy = true) (hw : s.host.all HostOp.wordWide = true) :
    ∃ t, hostTurn s = .next t ∧ t.host <:+ s.host := by
  cases hh : s.host with
  | nil => exact ⟨s, hostTurn_nil hh, hh ▸ List.suffix_rfl⟩
  | cons op rest =>
    have hop : op.wordWide = true := List.all_eq_true.mp hw op (hh ▸ List.mem_cons_self)
    have done : rest <:+ op :: rest := List.suffix_cons op rest
    have stays : s.host <:+ op :: rest := hh ▸ List.suffix_rfl
    cases op with
    | pass => exact ⟨_, hostTurn_pass hh, done⟩
    | wait => exact ⟨s, hostTurn_wait_busy hh hb, stays⟩
    | waitIrq =>
      cases hi : s.irq with
      | true => exact ⟨_, hostTurn_waitIrq_done hh hi, done⟩
      | false => exact ⟨s, hostTurn_waitIrq_low hh hi (.inl hb), stays⟩
    | read addr size =>
      obtain rfl : size = 4 := eq_of_beq hop
      exact ⟨_, hostTurn_read hh, done⟩
    | write addr size v =>
      obtain rfl : size = 4 := eq_of_beq hop
      exact ⟨_, hostTurn_write hh, done⟩

/-- A step with latency left takes one turn off it and keeps what the next such step needs. -/
theorem exists_step_busy {s : State} {w : Word} {left : Nat} (hp : s.phase = .busy w (left + 1)) (hr : s.resets = [])
    (hw : s.host.all HostOp.wordWide = true) :
    ∃ t, step s = .next t ∧ t.phase = .busy w left ∧ t.resets = [] ∧ t.host.all HostOp.wordWide = true := by
  obtain ⟨t, turn, hsuffix⟩ := exists_hostTurn_busy (s := { s with phase := .busy w left }) rfl hw
  have frame := hostTurn_busy rfl turn
  refine ⟨t, (step_busy hr hp).trans turn, congrArg State.phase frame, (congrArg State.resets frame).trans hr, ?_⟩
  exact List.all_eq_true.mpr fun op hop => List.all_eq_true.mp hw op (hsuffix.subset hop)

/-- The completion of any word, legal or not, leaves the engine idle with DONE set (R89, R141). -/
theorem exists_completeWord_done (w : Word) (s : State) :
    ∃ t, completeWord w s = .next t ∧ t.phase = .idle ∧ t.status.done = true := by
  cases hd : decode w with
  | ok i => exact completeWord_ok hd s ▸ exec_next i s
  | error e => exact ⟨_, completeWord_error hd s, rfl, rfl⟩

end Sys2Proof.Machine

open Sys2Proof Sys2Proof.Machine

/-- Settles O6, by induction on the latency left: each turn goes on with one less, and with nothing left the step is the
completion. -/
theorem everyCommandCompletes : Obligations.EveryCommandCompletes := by
  intro s w left
  induction left generalizing s with
  | zero =>
    intro hp hr _
    obtain ⟨t, complete, hidle, hdone⟩ := exists_completeWord_done w s
    exact ⟨t, core_run_succ ((step_complete hr hp).trans complete) 0, hidle, hdone⟩
  | succ left ih =>
    intro hp hr hw
    obtain ⟨u, hstep, hpu, hru, hwu⟩ := exists_step_busy hp hr hw
    obtain ⟨t, hrun, hidle, hdone⟩ := ih u hpu hru hwu
    exact ⟨t, (core_run_succ hstep (left + 1)).trans hrun, hidle, hdone⟩

/-- Settles O17: the write to STATUS is that of either phase, and every other write is dropped. -/
theorem writesDuringBusyAreDropped : Obligations.WritesDuringBusyAreDropped := fun s _ v hb =>
  ⟨fun haddr => haddr ▸ statusWriteClearsBits s v, fun haddr => hostWrite_dropped hb haddr v⟩

/-- Settles O9: the values stand in the state after reset; with the flags and the enables at 0 the words and the
interrupt line are 0. -/
theorem resetValues : Obligations.ResetValues := fun p e =>
  ⟨rfl, statusWord_resetWith p e, ctrlWord_resetWith p e, rfl, rfl, rfl, rfl, rfl, rfl, rfl, rfl, rfl, rfl, rfl, rfl,
    fun x => Vector.getElem_replicate x.isLt, irq_low_of_enables rfl rfl⟩

/-- Settles O10: the step is the reset event, whose elements are those of the state after reset. -/
theorem resetAbandonsTheCommand : Obligations.ResetAbandonsTheCommand := by
  intro s rest hr
  obtain ⟨hidle, hstatus, hctrl, -, -, -, hin, hpk, hbit, hdec, htotal, hslist, hnode, hroot, hbitCnt, hcounts,
    hirq⟩ := resetValues s.params (s.epoch + 1)
  exact ⟨_, step_reset hr, hidle, hstatus, hctrl, hin, hpk, hbit, hdec, htotal, hslist, hnode, hroot, hbitCnt,
    hcounts, hirq, rfl, rfl, rfl⟩

/-- Settles O23: CLEAR's one stage always succeeds, and its completion sets the four fields of R141. -/
theorem clearDiscardsTheSession : Obligations.ClearDiscardsTheSession := fun s =>
  primitive_ok (s := s) (f := clearStage) rfl
end
